-- ==== Sys2Proof/Word.lean ====
section
/-! DEFINITION. The word and byte types of the block and the extraction of a field from a number.

All offsets, sizes, capacities and counts of the block are `AW` = 32 bits wide (00_scope.md R8, D3),
as are the bit buffer (R22), the checksum sums (R36) and the host registers (R40). -/

namespace Sys2Proof

/-- A register of `AW` = 32 bits (00_scope.md R8). -/
abbrev Word := BitVec 32

/-- One byte of IN or OUT; bit 0 is its least significant bit (00_scope.md R10). -/
abbrev Byte := BitVec 8

end Sys2Proof
end

