-- ==== Sys2Proof/Syntax.lean ====
section
/-! DEFINITION. The instructions: one constructor per row of spec/opcode_table.json (30_encoding.md R124).
The operands of a constructor are the fields of the row's word that are not fixed by its mask; raw extra
bits that follow a symbol are not part of the word and are read by the instruction itself (R106, R119). -/

namespace Sys2Proof

/-- The five tree stores (10_state.md R27, R28): three writable, two constant. -/
inductive TreeId where
  | pre | dynLit | dynDist | fixLit | fixDist
  deriving DecidableEq, Repr

/-- The rows of the opcode table. -/
inductive Instr where
  -- ZHDR16 (42_deflate_framing.md R170)
  /-- An acceptable header: CM = 8, CINFO at most 7, FDICT = 0. -/
  | zhdr (cinfo : BitVec 3) (fcheck : BitVec 5) (flevel : BitVec 2)
  /-- CM = 8, CINFO = 8 + `cinfo`: the declared window is above 32768. -/
  | zhdrBadwindow (cinfo : BitVec 3) (fcheck : BitVec 5) (fdict : BitVec 1) (flevel : BitVec 2)
  /-- CM = 8, CINFO at most 7, FDICT = 1. -/
  | zhdrFdict (cinfo : BitVec 3) (fcheck : BitVec 5) (flevel : BitVec 2)
  /-- CM other than 8. -/
  | zhdrBadcm (cm cinfo : BitVec 4) (fcheck : BitVec 5) (fdict : BitVec 1) (flevel : BitVec 2)
  -- BHDR3 (42_deflate_framing.md R174 to R180)
  | bhdrStored (last : Bool)
  | bhdrFixed (last : Bool)
  | bhdrDynamic (last : Bool)
  | bhdrReserved (last : Bool)
  -- STORED32, DYNHDR14, PRELEN3 (R176, R181, R182)
  | stored (len nlen : BitVec 16)
  | dynhdr (hlit hdist : BitVec 5) (hclen : BitVec 4)
  | prelen (length : BitVec 3)
  -- CLSYM5 (R184, R185, R187, R188)
  | clLen (length : BitVec 4)
  | clRep
  | clZrep3
  | clZrep11
  -- LITLEN9 (43_lz77_expander.md R202, R204, R206, R214)
  | lit (byte : Byte)
  | eob
  | len0
  | len1
  | len2
  | len3
  | len4
  | len5
  | len6
  | len7
  | len8
  | len9
  | len10
  | len11
  | len12
  | len13
  | len14
  | len15
  | len16
  | len17
  | len18
  | len19
  | len20
  | len21
  | len22
  | len23
  | len24
  | len25
  | len26
  | len27
  | len28
  | litlenRsvd286
  | litlenRsvd287
  -- DIST5 (43_lz77_expander.md R208, R216)
  | dist0
  | dist1
  | dist2
  | dist3
  | dist4
  | dist5
  | dist6
  | dist7
  | dist8
  | dist9
  | dist10
  | dist11
  | dist12
  | dist13
  | dist14
  | dist15
  | dist16
  | dist17
  | dist18
  | dist19
  | dist20
  | dist21
  | dist22
  | dist23
  | dist24
  | dist25
  | dist26
  | dist27
  | dist28
  | dist29
  | distRsvd30
  | distRsvd31
  -- TRAILER32 (44_decompress_top.md R224)
  | trailer (adlerHi adlerLo : BitVec 16)
  -- CTRL32: a host write to CTRL with START = 1; bits 31:1 are ignored (R220, 10_state.md R40)
  | decompress (ignored : BitVec 31)
  -- FIXCODE: one code of a fixed tree, as a number (30_encoding.md R118)
  /-- Codes 0 .. 23, symbols 256 .. 279. -/
  | fixlit7 (code : BitVec 7)
  /-- Codes 48 .. 191, symbols 0 .. 143. -/
  | fixlit8a (code : BitVec 8)
  /-- Codes 192 .. 199, symbols 280 .. 287. -/
  | fixlit8b (code : BitVec 8)
  /-- Codes 400 .. 511, symbols 144 .. 255. -/
  | fixlit9 (code : BitVec 9)
  /-- Codes 0 .. 29, distance symbols 0 .. 29. -/
  | fixdist5 (code : BitVec 5)
  -- UOP: unit operations, with no encoding in the stream
  | brInit (off : Word)
  | brRead (n : Nat)
  | brGetValue (n : Nat)
  | brFlush
  | brReadByte
  | brRemainingBytes
  | htBuild (tree : TreeId) (codeLengths : List (BitVec 8))
  | htDecodeSymbol (tree : TreeId)
  | dyntrees
  | matchCopy
  | lzCopy (length : BitVec 9) (distance : BitVec 16)
  | adlerInit (initial : Word)
  | adlerUpdate (byte : Byte)
  | adlerFinal
  deriving DecidableEq, Repr

end Sys2Proof
end

