-- ==== Sys2Proof/WellFormed.lean ====
section
/-! DEFINITION. Which instructions are well formed: the ranges of operands that the type of an operand
does not already give (30_encoding.md R118, R122, R124; 41_huffman_tree_decoder.md R150; the operand
ranges of spec/opcode_table.json). -/

namespace Sys2Proof

/-- The stores HT.BUILD may write (41_huffman_tree_decoder.md R150); the other two are constants (R28). -/
def TreeId.writable : TreeId → Bool
  | .pre | .dynLit | .dynDist => true
  | .fixLit | .fixDist => false

/-- The instruction's operands are in the range the opcode table gives them. -/
def Instr.wf : Instr → Bool
  | .zhdrBadcm cm _ _ _ _ => cm != 8
  | .fixlit7 code => code.toNat ≤ 23
  | .fixlit8a code => 48 ≤ code.toNat && code.toNat ≤ 191
  | .fixlit8b code => 192 ≤ code.toNat && code.toNat ≤ 199
  | .fixlit9 code => 400 ≤ code.toNat
  | .fixdist5 code => code.toNat ≤ 29
  | .htBuild _ codeLengths => 1 ≤ codeLengths.length && codeLengths.length ≤ 288
  | .lzCopy length distance =>
      3 ≤ length.toNat && length.toNat ≤ 258 && 1 ≤ distance.toNat && distance.toNat ≤ 32768
  | _ => true

/-- The rows that are not elements of the stream: the fixed-code rows and the unit operations
(formats FIXCODE and UOP, 30_encoding.md R124). -/
def Instr.isUnit : Instr → Bool
  | .fixlit7 _ | .fixlit8a _ | .fixlit8b _ | .fixlit9 _ | .fixdist5 _
  | .brInit _ | .brRead _ | .brGetValue _ | .brFlush | .brReadByte | .brRemainingBytes
  | .htBuild _ _ | .htDecodeSymbol _ | .dyntrees | .matchCopy | .lzCopy _ _
  | .adlerInit _ | .adlerUpdate _ | .adlerFinal => true
  | _ => false

/-- The operations a user of a bare unit may issue: every unit operation with any operands, and the fixed-code rows
with a code that is a word of the row (30_encoding.md R118; log 11). LZ.COPY and HT.BUILD run outside the ranges of
their operands too (log 40). -/
def Instr.issuable (i : Instr) : Bool :=
  i.isUnit && match i with
    | .lzCopy _ _ | .htBuild _ _ => true
    | i => i.wf

end Sys2Proof
end

