-- ==== Sys2Proof/Decode.lean ====
section
/-! DEFINITION. Decoding of a word in a given format to an instruction (30_encoding.md R92 to R118, R124),
the encoder, the opcode table as data, and the host's view of decoding by opcode-table word.

The block's decoding depends on where the sequencer stands (30_encoding.md R120): the format of the next
word is not in the word. So `decode` takes the format, and Machine/Fetch.lean says which format is next. -/

namespace Sys2Proof

/-- The formats of 30_encoding.md R124. A `FIXCODE` word is the code as a number (R118), one format per
code length and tree. -/
inductive Format where
  | zhdr16 | bhdr3 | stored32 | dynhdr14 | prelen3 | clsym5 | litlen9 | dist5 | trailer32 | ctrl32
  | fixlit7 | fixlit8 | fixlit9 | fixdist5
  deriving DecidableEq, Repr

/-- The width in bits of a format's word (30_encoding.md R124). -/
def Format.width : Format → Nat
  | .zhdr16 => 16 | .bhdr3 => 3 | .stored32 => 32 | .dynhdr14 => 14 | .prelen3 => 3 | .clsym5 => 5
  | .litlen9 => 9 | .dist5 => 5 | .trailer32 => 32 | .ctrl32 => 32
  | .fixlit7 => 7 | .fixlit8 => 8 | .fixlit9 => 9 | .fixdist5 => 5

/-- Why a word is no instruction. -/
inductive DecodeError where
  /-- The number does not fit the format's width. -/
  | tooWide (f : Format) (w : Nat)
  /-- No row of the opcode table has this word in this format. -/
  | noElement (f : Format) (w : Nat)
  deriving DecidableEq, Repr

/-- `w[lo+n-1 : lo]` (00_scope.md R10). -/
def bits (w lo n : Nat) : BitVec n := BitVec.ofNat n (w / 2 ^ lo)

/-- ZHDR16 (30_encoding.md R92), the rows in the order of 42_deflate_framing.md R170. -/
def decodeZhdr (w : Nat) : Instr :=
  if bits w 0 4 ≠ 8 then .zhdrBadcm (bits w 0 4) (bits w 4 4) (bits w 8 5) (bits w 13 1) (bits w 14 2)
  else if bits w 7 1 = 1 then .zhdrBadwindow (bits w 4 3) (bits w 8 5) (bits w 13 1) (bits w 14 2)
  else if bits w 13 1 = 1 then .zhdrFdict (bits w 4 3) (bits w 8 5) (bits w 14 2)
  else .zhdr (bits w 4 3) (bits w 8 5) (bits w 14 2)

/-- BHDR3 (30_encoding.md R94): bit 0 `last_block_flag`, bits 2:1 `block_type`. -/
def decodeBhdr (w : Nat) : Instr :=
  let last := bits w 0 1 == 1
  match (bits w 1 2).toNat with
  | 0 => .bhdrStored last
  | 1 => .bhdrFixed last
  | 2 => .bhdrDynamic last
  | _ => .bhdrReserved last

/-- Pre-code symbols (30_encoding.md R108). -/
def decodeClsym (w : Nat) : Option Instr :=
  if w < 16 then some (.clLen (BitVec.ofNat 4 w))
  else match w with
  | 16 => some .clRep
  | 17 => some .clZrep3
  | 18 => some .clZrep11
  | _ => none

/-- LEN.k of a length symbol's index k = symbol - 257 (30_encoding.md R112). -/
def lenInstr : Nat → Option Instr
  | 0 => some .len0
  | 1 => some .len1
  | 2 => some .len2
  | 3 => some .len3
  | 4 => some .len4
  | 5 => some .len5
  | 6 => some .len6
  | 7 => some .len7
  | 8 => some .len8
  | 9 => some .len9
  | 10 => some .len10
  | 11 => some .len11
  | 12 => some .len12
  | 13 => some .len13
  | 14 => some .len14
  | 15 => some .len15
  | 16 => some .len16
  | 17 => some .len17
  | 18 => some .len18
  | 19 => some .len19
  | 20 => some .len20
  | 21 => some .len21
  | 22 => some .len22
  | 23 => some .len23
  | 24 => some .len24
  | 25 => some .len25
  | 26 => some .len26
  | 27 => some .len27
  | 28 => some .len28
  | _ => none

/-- DIST.j of a distance symbol j (30_encoding.md R116), and the two reserved rows. -/
def decodeDist : Nat → Option Instr
  | 0 => some .dist0
  | 1 => some .dist1
  | 2 => some .dist2
  | 3 => some .dist3
  | 4 => some .dist4
  | 5 => some .dist5
  | 6 => some .dist6
  | 7 => some .dist7
  | 8 => some .dist8
  | 9 => some .dist9
  | 10 => some .dist10
  | 11 => some .dist11
  | 12 => some .dist12
  | 13 => some .dist13
  | 14 => some .dist14
  | 15 => some .dist15
  | 16 => some .dist16
  | 17 => some .dist17
  | 18 => some .dist18
  | 19 => some .dist19
  | 20 => some .dist20
  | 21 => some .dist21
  | 22 => some .dist22
  | 23 => some .dist23
  | 24 => some .dist24
  | 25 => some .dist25
  | 26 => some .dist26
  | 27 => some .dist27
  | 28 => some .dist28
  | 29 => some .dist29
  | 30 => some .distRsvd30
  | 31 => some .distRsvd31
  | _ => none

/-- Literal/length symbols (30_encoding.md R110). -/
def decodeLitlen (w : Nat) : Option Instr :=
  if w < 256 then some (.lit (BitVec.ofNat 8 w))
  else if w = 256 then some .eob
  else if w < 286 then lenInstr (w - 257)
  else if w = 286 then some .litlenRsvd286
  else if w = 287 then some .litlenRsvd287
  else none

/-- The codes of the fixed trees, by code length (30_encoding.md R118). -/
def decodeFix : Format → Nat → Option Instr
  | .fixlit7, c => if c ≤ 23 then some (.fixlit7 (BitVec.ofNat 7 c)) else none
  | .fixlit8, c =>
      if 48 ≤ c ∧ c ≤ 191 then some (.fixlit8a (BitVec.ofNat 8 c))
      else if 192 ≤ c ∧ c ≤ 199 then some (.fixlit8b (BitVec.ofNat 8 c)) else none
  | .fixlit9, c => if 400 ≤ c then some (.fixlit9 (BitVec.ofNat 9 c)) else none
  | .fixdist5, c => if c ≤ 29 then some (.fixdist5 (BitVec.ofNat 5 c)) else none
  | _, _ => none

/-- The element a word of the format's width selects, if any. -/
def decodeFit (f : Format) (w : Nat) : Option Instr :=
  match f with
  | .zhdr16 => some (decodeZhdr w)
  | .bhdr3 => some (decodeBhdr w)
  | .stored32 => some (.stored (bits w 0 16) (bits w 16 16))
  | .dynhdr14 => some (.dynhdr (bits w 0 5) (bits w 5 5) (bits w 10 4))
  | .prelen3 => some (.prelen (bits w 0 3))
  | .clsym5 => decodeClsym w
  | .litlen9 => decodeLitlen w
  | .dist5 => decodeDist w
  | .trailer32 => some (.trailer (bits w 16 16) (bits w 0 16))
  | .ctrl32 => if bits w 0 1 = 1 then some (.decompress (bits w 1 31)) else none
  | .fixlit7 | .fixlit8 | .fixlit9 | .fixdist5 => decodeFix f w

/-- Decoding of the word `w` in the format `f`: total, and it rejects by name (30_encoding.md R124). -/
def decode (f : Format) (w : Nat) : Except DecodeError Instr :=
  if 2 ^ f.width ≤ w then .error (.tooWide f w)
  else match decodeFit f w with
  | some i => .ok i
  | none => .error (.noElement f w)

/-- The index k of LEN.k. -/
def Instr.lenIndex : Instr → Option Nat
  | .len0 => some 0
  | .len1 => some 1
  | .len2 => some 2
  | .len3 => some 3
  | .len4 => some 4
  | .len5 => some 5
  | .len6 => some 6
  | .len7 => some 7
  | .len8 => some 8
  | .len9 => some 9
  | .len10 => some 10
  | .len11 => some 11
  | .len12 => some 12
  | .len13 => some 13
  | .len14 => some 14
  | .len15 => some 15
  | .len16 => some 16
  | .len17 => some 17
  | .len18 => some 18
  | .len19 => some 19
  | .len20 => some 20
  | .len21 => some 21
  | .len22 => some 22
  | .len23 => some 23
  | .len24 => some 24
  | .len25 => some 25
  | .len26 => some 26
  | .len27 => some 27
  | .len28 => some 28
  | _ => none

/-- The symbol j of DIST.j. -/
def Instr.distIndex : Instr → Option Nat
  | .dist0 => some 0
  | .dist1 => some 1
  | .dist2 => some 2
  | .dist3 => some 3
  | .dist4 => some 4
  | .dist5 => some 5
  | .dist6 => some 6
  | .dist7 => some 7
  | .dist8 => some 8
  | .dist9 => some 9
  | .dist10 => some 10
  | .dist11 => some 11
  | .dist12 => some 12
  | .dist13 => some 13
  | .dist14 => some 14
  | .dist15 => some 15
  | .dist16 => some 16
  | .dist17 => some 17
  | .dist18 => some 18
  | .dist19 => some 19
  | .dist20 => some 20
  | .dist21 => some 21
  | .dist22 => some 22
  | .dist23 => some 23
  | .dist24 => some 24
  | .dist25 => some 25
  | .dist26 => some 26
  | .dist27 => some 27
  | .dist28 => some 28
  | .dist29 => some 29
  | _ => none

/-- The word of an instruction and its format, written from the layouts of 30_encoding.md R92 to R118.
A unit operation has none (R124). -/
def encode (i : Instr) : Option (Format × Nat) :=
  match i with
  | .zhdr cinfo fcheck flevel =>
      some (.zhdr16, 8 + cinfo.toNat * 16 + fcheck.toNat * 256 + flevel.toNat * 16384)
  | .zhdrBadwindow cinfo fcheck fdict flevel =>
      some (.zhdr16, 0x88 + cinfo.toNat * 16 + fcheck.toNat * 256 + fdict.toNat * 8192 + flevel.toNat * 16384)
  | .zhdrFdict cinfo fcheck flevel =>
      some (.zhdr16, 0x2008 + cinfo.toNat * 16 + fcheck.toNat * 256 + flevel.toNat * 16384)
  | .zhdrBadcm cm cinfo fcheck fdict flevel =>
      some (.zhdr16, cm.toNat + cinfo.toNat * 16 + fcheck.toNat * 256 + fdict.toNat * 8192 + flevel.toNat * 16384)
  | .bhdrStored last => some (.bhdr3, last.toNat)
  | .bhdrFixed last => some (.bhdr3, 2 + last.toNat)
  | .bhdrDynamic last => some (.bhdr3, 4 + last.toNat)
  | .bhdrReserved last => some (.bhdr3, 6 + last.toNat)
  | .stored len nlen => some (.stored32, len.toNat + nlen.toNat * 65536)
  | .dynhdr hlit hdist hclen => some (.dynhdr14, hlit.toNat + hdist.toNat * 32 + hclen.toNat * 1024)
  | .prelen length => some (.prelen3, length.toNat)
  | .clLen length => some (.clsym5, length.toNat)
  | .clRep => some (.clsym5, 16)
  | .clZrep3 => some (.clsym5, 17)
  | .clZrep11 => some (.clsym5, 18)
  | .lit byte => some (.litlen9, byte.toNat)
  | .eob => some (.litlen9, 256)
  | .len0 => some (.litlen9, 257)
  | .len1 => some (.litlen9, 258)
  | .len2 => some (.litlen9, 259)
  | .len3 => some (.litlen9, 260)
  | .len4 => some (.litlen9, 261)
  | .len5 => some (.litlen9, 262)
  | .len6 => some (.litlen9, 263)
  | .len7 => some (.litlen9, 264)
  | .len8 => some (.litlen9, 265)
  | .len9 => some (.litlen9, 266)
  | .len10 => some (.litlen9, 267)
  | .len11 => some (.litlen9, 268)
  | .len12 => some (.litlen9, 269)
  | .len13 => some (.litlen9, 270)
  | .len14 => some (.litlen9, 271)
  | .len15 => some (.litlen9, 272)
  | .len16 => some (.litlen9, 273)
  | .len17 => some (.litlen9, 274)
  | .len18 => some (.litlen9, 275)
  | .len19 => some (.litlen9, 276)
  | .len20 => some (.litlen9, 277)
  | .len21 => some (.litlen9, 278)
  | .len22 => some (.litlen9, 279)
  | .len23 => some (.litlen9, 280)
  | .len24 => some (.litlen9, 281)
  | .len25 => some (.litlen9, 282)
  | .len26 => some (.litlen9, 283)
  | .len27 => some (.litlen9, 284)
  | .len28 => some (.litlen9, 285)
  | .litlenRsvd286 => some (.litlen9, 286)
  | .litlenRsvd287 => some (.litlen9, 287)
  | .dist0 => some (.dist5, 0)
  | .dist1 => some (.dist5, 1)
  | .dist2 => some (.dist5, 2)
  | .dist3 => some (.dist5, 3)
  | .dist4 => some (.dist5, 4)
  | .dist5 => some (.dist5, 5)
  | .dist6 => some (.dist5, 6)
  | .dist7 => some (.dist5, 7)
  | .dist8 => some (.dist5, 8)
  | .dist9 => some (.dist5, 9)
  | .dist10 => some (.dist5, 10)
  | .dist11 => some (.dist5, 11)
  | .dist12 => some (.dist5, 12)
  | .dist13 => some (.dist5, 13)
  | .dist14 => some (.dist5, 14)
  | .dist15 => some (.dist5, 15)
  | .dist16 => some (.dist5, 16)
  | .dist17 => some (.dist5, 17)
  | .dist18 => some (.dist5, 18)
  | .dist19 => some (.dist5, 19)
  | .dist20 => some (.dist5, 20)
  | .dist21 => some (.dist5, 21)
  | .dist22 => some (.dist5, 22)
  | .dist23 => some (.dist5, 23)
  | .dist24 => some (.dist5, 24)
  | .dist25 => some (.dist5, 25)
  | .dist26 => some (.dist5, 26)
  | .dist27 => some (.dist5, 27)
  | .dist28 => some (.dist5, 28)
  | .dist29 => some (.dist5, 29)
  | .distRsvd30 => some (.dist5, 30)
  | .distRsvd31 => some (.dist5, 31)
  | .trailer adlerHi adlerLo => some (.trailer32, adlerHi.toNat * 65536 + adlerLo.toNat)
  | .decompress ignored => some (.ctrl32, 1 + ignored.toNat * 2)
  | .fixlit7 code => some (.fixlit7, code.toNat)
  | .fixlit8a code => some (.fixlit8, code.toNat)
  | .fixlit8b code => some (.fixlit8, code.toNat)
  | .fixlit9 code => some (.fixlit9, code.toNat)
  | .fixdist5 code => some (.fixdist5, code.toNat)
  | .brInit _ | .brRead _ | .brGetValue _ | .brFlush | .brReadByte | .brRemainingBytes
  | .htBuild _ _ | .htDecodeSymbol _ | .dyntrees | .matchCopy | .lzCopy _ _
  | .adlerInit _ | .adlerUpdate _ | .adlerFinal => none

/-- The row's name in spec/opcode_table.json. -/
def Instr.mnemonic : Instr → String
  | .zhdr _ _ _ => "ZHDR"
  | .zhdrBadwindow _ _ _ _ => "ZHDR.BADWINDOW"
  | .zhdrFdict _ _ _ => "ZHDR.FDICT"
  | .zhdrBadcm _ _ _ _ _ => "ZHDR.BADCM"
  | .bhdrStored _ => "BHDR.STORED"
  | .bhdrFixed _ => "BHDR.FIXED"
  | .bhdrDynamic _ => "BHDR.DYNAMIC"
  | .bhdrReserved _ => "BHDR.RESERVED"
  | .stored _ _ => "STORED"
  | .dynhdr _ _ _ => "DYNHDR"
  | .prelen _ => "PRELEN"
  | .clLen _ => "CL.LEN"
  | .clRep => "CL.REP"
  | .clZrep3 => "CL.ZREP3"
  | .clZrep11 => "CL.ZREP11"
  | .lit _ => "LIT"
  | .eob => "EOB"
  | .len0 => "LEN.0"
  | .len1 => "LEN.1"
  | .len2 => "LEN.2"
  | .len3 => "LEN.3"
  | .len4 => "LEN.4"
  | .len5 => "LEN.5"
  | .len6 => "LEN.6"
  | .len7 => "LEN.7"
  | .len8 => "LEN.8"
  | .len9 => "LEN.9"
  | .len10 => "LEN.10"
  | .len11 => "LEN.11"
  | .len12 => "LEN.12"
  | .len13 => "LEN.13"
  | .len14 => "LEN.14"
  | .len15 => "LEN.15"
  | .len16 => "LEN.16"
  | .len17 => "LEN.17"
  | .len18 => "LEN.18"
  | .len19 => "LEN.19"
  | .len20 => "LEN.20"
  | .len21 => "LEN.21"
  | .len22 => "LEN.22"
  | .len23 => "LEN.23"
  | .len24 => "LEN.24"
  | .len25 => "LEN.25"
  | .len26 => "LEN.26"
  | .len27 => "LEN.27"
  | .len28 => "LEN.28"
  | .litlenRsvd286 => "LITLEN.RSVD286"
  | .litlenRsvd287 => "LITLEN.RSVD287"
  | .dist0 => "DIST.0"
  | .dist1 => "DIST.1"
  | .dist2 => "DIST.2"
  | .dist3 => "DIST.3"
  | .dist4 => "DIST.4"
  | .dist5 => "DIST.5"
  | .dist6 => "DIST.6"
  | .dist7 => "DIST.7"
  | .dist8 => "DIST.8"
  | .dist9 => "DIST.9"
  | .dist10 => "DIST.10"
  | .dist11 => "DIST.11"
  | .dist12 => "DIST.12"
  | .dist13 => "DIST.13"
  | .dist14 => "DIST.14"
  | .dist15 => "DIST.15"
  | .dist16 => "DIST.16"
  | .dist17 => "DIST.17"
  | .dist18 => "DIST.18"
  | .dist19 => "DIST.19"
  | .dist20 => "DIST.20"
  | .dist21 => "DIST.21"
  | .dist22 => "DIST.22"
  | .dist23 => "DIST.23"
  | .dist24 => "DIST.24"
  | .dist25 => "DIST.25"
  | .dist26 => "DIST.26"
  | .dist27 => "DIST.27"
  | .dist28 => "DIST.28"
  | .dist29 => "DIST.29"
  | .distRsvd30 => "DIST.RSVD30"
  | .distRsvd31 => "DIST.RSVD31"
  | .trailer _ _ => "TRAILER"
  | .decompress _ => "DECOMPRESS"
  | .fixlit7 _ => "FIXLIT.7"
  | .fixlit8a _ => "FIXLIT.8A"
  | .fixlit8b _ => "FIXLIT.8B"
  | .fixlit9 _ => "FIXLIT.9"
  | .fixdist5 _ => "FIXDIST.5"
  | .brInit _ => "BR.INIT"
  | .brRead _ => "BR.READ"
  | .brGetValue _ => "BR.GET_VALUE"
  | .brFlush => "BR.FLUSH"
  | .brReadByte => "BR.READ_BYTE"
  | .brRemainingBytes => "BR.REMAINING_BYTES"
  | .htBuild _ _ => "HT.BUILD"
  | .htDecodeSymbol _ => "HT.DECODE_SYMBOL"
  | .dyntrees => "DYNTREES"
  | .matchCopy => "MATCH"
  | .lzCopy _ _ => "LZ.COPY"
  | .adlerInit _ => "ADLER.INIT"
  | .adlerUpdate _ => "ADLER.UPDATE"
  | .adlerFinal => "ADLER.FINAL"

/-- A row of spec/opcode_table.json that a word can select: `(w & mask) == match` (30_encoding.md R124);
`last` is the table's `"order": "last"`, a row that applies only when no other row of its format does. -/
structure OpcodeRow where
  mnemonic : String
  format : Format
  mask : Nat
  pattern : Nat
  last : Bool
  deriving DecidableEq, Repr

/-- The word selects the row by mask and match. -/
def OpcodeRow.selects (r : OpcodeRow) (w : Nat) : Bool := w &&& r.mask == r.pattern

/-- The rows of spec/opcode_table.json, all formats but LITLEN9 and DIST5. -/
def opcodeRowsFixed : List OpcodeRow := [
  ⟨"ZHDR", .zhdr16, 0x208f, 0x0008, false⟩,
  ⟨"ZHDR.BADWINDOW", .zhdr16, 0x008f, 0x0088, false⟩,
  ⟨"ZHDR.FDICT", .zhdr16, 0x208f, 0x2008, false⟩,
  ⟨"ZHDR.BADCM", .zhdr16, 0x0000, 0x0000, true⟩,
  ⟨"BHDR.STORED", .bhdr3, 0b110, 0b000, false⟩,
  ⟨"BHDR.FIXED", .bhdr3, 0b110, 0b010, false⟩,
  ⟨"BHDR.DYNAMIC", .bhdr3, 0b110, 0b100, false⟩,
  ⟨"BHDR.RESERVED", .bhdr3, 0b110, 0b110, false⟩,
  ⟨"STORED", .stored32, 0x00000000, 0x00000000, false⟩,
  ⟨"DYNHDR", .dynhdr14, 0x0000, 0x0000, false⟩,
  ⟨"PRELEN", .prelen3, 0b000, 0b000, false⟩,
  ⟨"CL.LEN", .clsym5, 0b10000, 0b00000, false⟩,
  ⟨"CL.REP", .clsym5, 0b11111, 0b10000, false⟩,
  ⟨"CL.ZREP3", .clsym5, 0b11111, 0b10001, false⟩,
  ⟨"CL.ZREP11", .clsym5, 0b11111, 0b10010, false⟩,
  ⟨"TRAILER", .trailer32, 0x00000000, 0x00000000, false⟩,
  ⟨"DECOMPRESS", .ctrl32, 0x00000001, 0x00000001, false⟩]

/-- The rows of spec/opcode_table.json, format LITLEN9. -/
def opcodeRowsLitlen : List OpcodeRow := [
  ⟨"LIT", .litlen9, 0x100, 0x000, false⟩,
  ⟨"EOB", .litlen9, 0x1ff, 0x100, false⟩,
  ⟨"LEN.0", .litlen9, 0x1ff, 0x101, false⟩,
  ⟨"LEN.1", .litlen9, 0x1ff, 0x102, false⟩,
  ⟨"LEN.2", .litlen9, 0x1ff, 0x103, false⟩,
  ⟨"LEN.3", .litlen9, 0x1ff, 0x104, false⟩,
  ⟨"LEN.4", .litlen9, 0x1ff, 0x105, false⟩,
  ⟨"LEN.5", .litlen9, 0x1ff, 0x106, false⟩,
  ⟨"LEN.6", .litlen9, 0x1ff, 0x107, false⟩,
  ⟨"LEN.7", .litlen9, 0x1ff, 0x108, false⟩,
  ⟨"LEN.8", .litlen9, 0x1ff, 0x109, false⟩,
  ⟨"LEN.9", .litlen9, 0x1ff, 0x10a, false⟩,
  ⟨"LEN.10", .litlen9, 0x1ff, 0x10b, false⟩,
  ⟨"LEN.11", .litlen9, 0x1ff, 0x10c, false⟩,
  ⟨"LEN.12", .litlen9, 0x1ff, 0x10d, false⟩,
  ⟨"LEN.13", .litlen9, 0x1ff, 0x10e, false⟩,
  ⟨"LEN.14", .litlen9, 0x1ff, 0x10f, false⟩,
  ⟨"LEN.15", .litlen9, 0x1ff, 0x110, false⟩,
  ⟨"LEN.16", .litlen9, 0x1ff, 0x111, false⟩,
  ⟨"LEN.17", .litlen9, 0x1ff, 0x112, false⟩,
  ⟨"LEN.18", .litlen9, 0x1ff, 0x113, false⟩,
  ⟨"LEN.19", .litlen9, 0x1ff, 0x114, false⟩,
  ⟨"LEN.20", .litlen9, 0x1ff, 0x115, false⟩,
  ⟨"LEN.21", .litlen9, 0x1ff, 0x116, false⟩,
  ⟨"LEN.22", .litlen9, 0x1ff, 0x117, false⟩,
  ⟨"LEN.23", .litlen9, 0x1ff, 0x118, false⟩,
  ⟨"LEN.24", .litlen9, 0x1ff, 0x119, false⟩,
  ⟨"LEN.25", .litlen9, 0x1ff, 0x11a, false⟩,
  ⟨"LEN.26", .litlen9, 0x1ff, 0x11b, false⟩,
  ⟨"LEN.27", .litlen9, 0x1ff, 0x11c, false⟩,
  ⟨"LEN.28", .litlen9, 0x1ff, 0x11d, false⟩,
  ⟨"LITLEN.RSVD286", .litlen9, 0x1ff, 0x11e, false⟩,
  ⟨"LITLEN.RSVD287", .litlen9, 0x1ff, 0x11f, false⟩]

/-- The rows of spec/opcode_table.json, format DIST5. -/
def opcodeRowsDist : List OpcodeRow := [
  ⟨"DIST.0", .dist5, 0b11111, 0b00000, false⟩,
  ⟨"DIST.1", .dist5, 0b11111, 0b00001, false⟩,
  ⟨"DIST.2", .dist5, 0b11111, 0b00010, false⟩,
  ⟨"DIST.3", .dist5, 0b11111, 0b00011, false⟩,
  ⟨"DIST.4", .dist5, 0b11111, 0b00100, false⟩,
  ⟨"DIST.5", .dist5, 0b11111, 0b00101, false⟩,
  ⟨"DIST.6", .dist5, 0b11111, 0b00110, false⟩,
  ⟨"DIST.7", .dist5, 0b11111, 0b00111, false⟩,
  ⟨"DIST.8", .dist5, 0b11111, 0b01000, false⟩,
  ⟨"DIST.9", .dist5, 0b11111, 0b01001, false⟩,
  ⟨"DIST.10", .dist5, 0b11111, 0b01010, false⟩,
  ⟨"DIST.11", .dist5, 0b11111, 0b01011, false⟩,
  ⟨"DIST.12", .dist5, 0b11111, 0b01100, false⟩,
  ⟨"DIST.13", .dist5, 0b11111, 0b01101, false⟩,
  ⟨"DIST.14", .dist5, 0b11111, 0b01110, false⟩,
  ⟨"DIST.15", .dist5, 0b11111, 0b01111, false⟩,
  ⟨"DIST.16", .dist5, 0b11111, 0b10000, false⟩,
  ⟨"DIST.17", .dist5, 0b11111, 0b10001, false⟩,
  ⟨"DIST.18", .dist5, 0b11111, 0b10010, false⟩,
  ⟨"DIST.19", .dist5, 0b11111, 0b10011, false⟩,
  ⟨"DIST.20", .dist5, 0b11111, 0b10100, false⟩,
  ⟨"DIST.21", .dist5, 0b11111, 0b10101, false⟩,
  ⟨"DIST.22", .dist5, 0b11111, 0b10110, false⟩,
  ⟨"DIST.23", .dist5, 0b11111, 0b10111, false⟩,
  ⟨"DIST.24", .dist5, 0b11111, 0b11000, false⟩,
  ⟨"DIST.25", .dist5, 0b11111, 0b11001, false⟩,
  ⟨"DIST.26", .dist5, 0b11111, 0b11010, false⟩,
  ⟨"DIST.27", .dist5, 0b11111, 0b11011, false⟩,
  ⟨"DIST.28", .dist5, 0b11111, 0b11100, false⟩,
  ⟨"DIST.29", .dist5, 0b11111, 0b11101, false⟩,
  ⟨"DIST.RSVD30", .dist5, 0b11111, 0b11110, false⟩,
  ⟨"DIST.RSVD31", .dist5, 0b11111, 0b11111, false⟩]

/-- Every row of spec/opcode_table.json with a match and a mask. -/
def opcodeRows : List OpcodeRow := opcodeRowsFixed ++ (opcodeRowsLitlen ++ opcodeRowsDist)

/-- The row applies to the word: it selects it, and a `last` row only when no other row of the format does. -/
def OpcodeRow.applies (r : OpcodeRow) (w : Nat) : Bool :=
  r.selects w && !(r.last && opcodeRows.any (fun q => q.format == r.format && !q.last && q.selects w))

/-- Which format an opcode-table word is read in when only its width and its bits are known. The table's
words do not carry their format (R120), so this is the model's choice (log 21): where two formats fit, the
one named first below. A symbol word (LITLEN9, CLSYM5, DIST5) may be followed by raw extra bits. -/
def tableFormat (nbits w : Nat) : Option Format :=
  if nbits = 3 then some .bhdr3
  else if nbits = 5 then some .dist5
  else if nbits = 9 then some .litlen9
  else if nbits = 14 then some .dynhdr14
  else if nbits ≤ 8 then
    if bits w 0 4 = 8 ∧ bits w 7 1 = 1 then some .zhdr16 else some .dist5
  else if nbits ≤ 16 then
    if 256 ≤ w ∧ w < 288 then some .litlen9
    else if bits w 0 4 = 8 ∧ bits w 7 1 = 0 then some .zhdr16
    else if w < 256 then some .litlen9
    else if w < 16384 then some .dynhdr14
    else some .zhdr16
  else if nbits ≤ 24 then some .dist5
  else if nbits ≤ 32 then
    if w = 1 then some .ctrl32
    else if 24 ≤ (bits w 0 5).toNat ∧ w < 32 then some .dist5
    else if (bits w 0 16) ^^^ (bits w 16 16) = 0xffff then some .stored32
    else some .trailer32
  else none

/-- The part of an opcode-table word that is the format's word; what lies above it are the extra bits that
follow a symbol in the stream (R106). -/
def tableWord (f : Format) (w : Nat) : Nat := w % 2 ^ f.width

/-- The instruction the decoder reads from an opcode-table word of `nbits` bits (log 21). -/
def decodeTableWord (nbits w : Nat) : Option Instr :=
  match tableFormat nbits w with
  | none => none
  | some f =>
    match decode f (tableWord f w) with
    | .ok i => some i
    | .error _ => none

end Sys2Proof
end

