-- ==== Sys2Proof/Config.lean ====
section
/-! DEFINITION. The parameters of the block (00_scope.md R7, R8) and the free values: what the spec
leaves at "any value" (93_implementation_defined.md U3, U5, U7). -/

namespace Sys2Proof.Config

/-- `AW`, the width of offsets, sizes, capacities and counts (00_scope.md R8; log 1). -/
abbrev aw : Nat := 32

/-- `IN_MAX`, the size in bytes of the largest input buffer, `2^AW - 1` (00_scope.md R8). -/
abbrev inMax : Nat := 2 ^ aw - 1

/-- `OUT_MAX`, the largest output capacity, `2^AW - 1` bytes (00_scope.md R8). -/
abbrev outMax : Nat := 2 ^ aw - 1

/-- `BITBUF_W`, the width of `BIT_BUFFER` (00_scope.md R7). -/
abbrev bitBufW : Nat := 32

/-- `MAX_CODE_SIZE` of every tree store (10_state.md R26, D10). -/
abbrev maxCodeSize : Nat := 15

/-- The Adler-32 modulus (00_scope.md R7). -/
abbrev adlerMod : Nat := 65521

/-- `ADLER_NMAX`, the number of bytes between two reductions (00_scope.md R7). -/
abbrev adlerNmax : Nat := 5552

/-- FREE VALUE. What the byte of IN at an offset nothing has written reads as (U7, 20_memory.md R61);
the first argument is the memory's epoch (log 3). -/
opaque unwrittenIn : Nat → Nat → Byte

/-- FREE VALUE. What the byte of OUT at an offset reads as when nothing has written it, or when an
error or a reset has made it "any value" (U3, U5, U7, 60_exceptions.md R258); the first argument is
the memory's epoch (log 3, log 4). -/
opaque unwrittenOut : Nat → Nat → Byte

/-- FREE VALUE. What `MemRead(IN, a, 1)` gives at an offset `a >= IN_SIZE`, where 00_scope.md R11 defines no byte (U9); the
arguments are the memory's epoch, IN_SIZE and the offset (log 35). -/
opaque beyondIn : Nat → Nat → Nat → Byte

/-- FREE VALUE. BYTE_STREAM_OFFSET after a BR.INIT whose operand is past IN_SIZE, and after START, before it is brought
within the bound of 10_state.md R23; the argument is the count of free values taken (log 14, log 19). -/
opaque freeOffset : Nat → Nat

/-- FREE VALUE. A byte that a copy at DISTANCE = 0 writes; the argument is the count of free values taken (log 32). -/
opaque freeByte : Nat → Byte

/-- FREE VALUE. An entry of CODE_LENGTHS past its 316, as DYNTREES takes it; the arguments are the count of free values
taken and the index (log 36). -/
opaque freeLength : Nat → Nat → BitVec 4

/-- FREE VALUES. NUMBER_OF_SYMBOLS, FIRST_CODE[L] and SYMS[L] of a tree that HT.BUILD makes of more code lengths than
NUMBER_OF_SYMBOLS can count; the first argument is the count of free values taken, the second is `L` (log 40). -/
opaque freeNumberOfSymbols : Nat → BitVec 9
@[inherit_doc freeNumberOfSymbols] opaque freeFirstCode : Nat → Nat → BitVec 24
@[inherit_doc freeNumberOfSymbols] opaque freeSyms : Nat → Nat → List (BitVec 9)

end Sys2Proof.Config
end

