-- ==== Sys2Proof/Machine/State.lean ====
section
/-! DEFINITION. The state of the block (10_state.md R20), its error kinds (60_exceptions.md R250), the
reasons the model stops, and the state after reset (10_state.md R48). Plain data throughout. -/

namespace Sys2Proof.Machine

/-- The error kinds, the exceptions of the block (60_exceptions.md R250). An error is not a stop of the
model: it is taken, and leads to the sequencer state ERROR (R256). -/
inductive ErrorKind where
  | unsupportedCompressionMethod
  | unsupportedValue
  | outOfData
  | valueMismatch
  | invalidCodeLengths
  | valueOutOfBounds
  | missingEndOfBlockCode
  | invalidSymbol
  | corruptedCode
  | insufficientSpace
  | checksumMismatch
  deriving DecidableEq, Repr

/-- The sequencer states (10_state.md R32, R33). -/
inductive SeqState where
  | idle
  | header
  | expectBlockHeader
  | storedBlock
  | fixedHuffmanBlock
  | dynamicHuffmanBlock
  | trailer
  | done
  | error
  deriving DecidableEq, Repr

/-- THE MODEL'S OWN (log 6): where inside a Huffman block the sequencer stands, that is which row it
executes next: the program points of 42_deflate_framing.md R180 to R186 and 43_lz77_expander.md R200. -/
inductive Place where
  /-- Before DYNHDR (R181). -/
  | dynhdr
  /-- Before the `i`-th PRELEN (R182). -/
  | prelen (i : Nat)
  /-- Before the code of a pre-code symbol (R183). -/
  | clCode
  /-- A pre-code symbol has been decoded (R183). -/
  | clSym
  /-- Before DYNTREES (R186). -/
  | dyntrees
  /-- Before the code of a literal/length symbol (R200). -/
  | litCode
  /-- A literal/length symbol stands in `SYMBOL` (R200). -/
  | litSym
  /-- Before the code of a distance symbol (R208). -/
  | distCode
  /-- A distance symbol stands in `DIST_SYMBOL` (R208). -/
  | distSym
  /-- `LENGTH` and `DISTANCE` are complete; the two checks and the copy come next (R210). -/
  | matchCopy
  deriving DecidableEq, Repr

/-- A tree store (10_state.md R26). `MAX_CODE_SIZE` is the constant `Config.maxCodeSize` in every store;
`COUNT[L]` is the length of `SYMS[L]` (log 13). -/
structure TreeStore where
  numberOfSymbols : BitVec 9
  firstCode : Vector (BitVec 24) 16
  syms : Vector (List (BitVec 9)) 16
  built : Bool
  deriving DecidableEq, Repr

/-- A store that holds no tree (10_state.md R27); the fields other than `BUILT` are the model's choice (log 2). -/
def TreeStore.empty : TreeStore :=
  { numberOfSymbols := 0, firstCode := Vector.replicate 16 0, syms := Vector.replicate 16 [], built := false }

/-- A byte memory (20_memory.md R60, R64): the bytes that have been written, by strictly rising offset. An
offset that is not listed has no known byte: it reads as a free value picked by `epoch` (log 3). -/
structure Memory where
  cells : List Host.Cell
  epoch : Nat
  deriving DecidableEq, Repr

/-- A move of the host (10_state.md R40; 70_reset_and_hazards.md R280, R288). Registers go by number and
bytes by offset: the bus map is open (log 8). -/
inductive HostMove where
  | writeReg (n : Nat) (v : Word)
  | readReg (n : Nat)
  | writeIn (a : Nat) (b : Byte)
  | readIn (a : Nat)
  | writeOut (a : Nat) (b : Byte)
  | readOut (a : Nat)
  /-- Hardware reset (R280). -/
  | reset
  /-- A user of a bare unit issues a unit operation (R298, log 11). -/
  | issue (i : Instr)
  deriving DecidableEq, Repr

/-- THE MODEL'S OWN (log 8): what happens next between host and engine. -/
inductive Input where
  /-- The host makes no move; the engine runs one row. -/
  | tick
  /-- The host's move lands here. -/
  | host (m : HostMove)
  deriving DecidableEq, Repr

/-- The state of the block (10_state.md R20). -/
structure State where
  -- host registers (R40); CTRL stores nothing and STATUS is a view of `seqState`
  errorCode : BitVec 4
  inSize : Word
  outCapacity : Word
  outCount : Word
  -- bit reader (R22); BYTE_STREAM is `inMem`
  byteStreamSize : Word
  byteStreamOffset : Word
  bitBuffer : BitVec 32
  bitBufferSize : BitVec 6
  -- writable tree stores (R27)
  preTree : TreeStore
  dynLitTree : TreeStore
  dynDistTree : TreeStore
  -- sequencer (R32)
  seqState : SeqState
  lastBlockFlag : Bool
  blockType : BitVec 2
  outOffset : Word
  storedLen : BitVec 16
  storedNlen : BitVec 16
  numLiteralCodes : BitVec 9
  numDistanceCodes : BitVec 6
  numCodeLengthCodes : BitVec 5
  preLengths : Vector (BitVec 3) 19
  codeLengths : Vector (BitVec 4) 316
  clIndex : BitVec 9
  -- expander (R34)
  symbol : BitVec 9
  length : BitVec 9
  distSymbol : BitVec 5
  distance : BitVec 16
  -- checksum unit (R36)
  adlerLo : Word
  adlerHi : Word
  adlerChunk : BitVec 13
  -- memories (20_memory.md R60, R64)
  inMem : Memory
  outMem : Memory
  -- the model's own (log 6, log 7, log 8, log 11, log 37)
  place : Place
  preSymbol : BitVec 9
  unitResult : Nat
  /-- The kind the last bare unit operation raised, as a code; 0 when it raised none (log 11). -/
  unitError : BitVec 4
  /-- How many free values have been taken (log 37). -/
  freeCount : Nat
  hostData : Word
  inputs : List Input
  deriving DecidableEq, Repr

/-- The state after hardware reset (10_state.md R48; 70_reset_and_hazards.md R280). The registers R48 calls
unspecified hold zero, by the model's choice (log 2). -/
def State.reset : State :=
  { errorCode := 0, inSize := 0, outCapacity := 0, outCount := 0
    byteStreamSize := 0, byteStreamOffset := 0, bitBuffer := 0, bitBufferSize := 0
    preTree := .empty, dynLitTree := .empty, dynDistTree := .empty
    seqState := .idle, lastBlockFlag := false, blockType := 0, outOffset := 0
    storedLen := 0, storedNlen := 0, numLiteralCodes := 0, numDistanceCodes := 0, numCodeLengthCodes := 0
    preLengths := Vector.replicate 19 0, codeLengths := Vector.replicate 316 0, clIndex := 0
    symbol := 0, length := 0, distSymbol := 0, distance := 0
    adlerLo := 0, adlerHi := 0, adlerChunk := 0
    inMem := ⟨[], 0⟩, outMem := ⟨[], 0⟩
    place := .litCode, preSymbol := 0, unitResult := 0, unitError := 0, freeCount := 0, hostData := 0, inputs := [] }

/-- Why the machine stops with a fault. Raised by host accesses only, never by a stream. -/
inductive Fault where
  /-- A host access to a register number other than 0 to 5 (10_state.md R40). Raised by Machine/HostPort.lean. Safe. -/
  | noSuchRegister (n : Nat)
  /-- A host access to IN or OUT at an offset past `IN_MAX`, `OUT_MAX` (20_memory.md R61, R64). Raised by
  Machine/HostPort.lean. Safe. -/
  | noSuchOffset (a : Nat)
  deriving DecidableEq, Repr

/-- Why the model gives no result. -/
inductive Refusal where
  /-- The instruction has no meaning yet. Raised by Machine/Dispatch.lean only. Safe. -/
  | notModelled (mnemonic : String)
  /-- A refill that would put more than 32 bits in BIT_BUFFER (40_bit_stream_reader.md R140, U1). Raised by
  BR.READ and BR.GET_VALUE. Safe. -/
  | refillBeyond32
  /-- HT.DECODE_SYMBOL on a store with BUILT = 0 (10_state.md R30, U6). Raised by HT.DECODE_SYMBOL. Safe. -/
  | treeNotBuilt (tree : TreeId)
  /-- HT.BUILD into a read-only constant store (10_state.md R28) of what it does not hold (log 16). Safe. -/
  | readOnlyTree (tree : TreeId)
  /-- A host access that the duty of 70_reset_and_hazards.md R292 forbids while BUSY (U4). Safe. -/
  | hostAccessWhileBusy
  /-- A bare unit operation while BUSY (10_state.md R21, log 11). Safe. -/
  | unitWhileBusy
  /-- What the host issues is no operation of a unit: an element of the stream (10_state.md R21), or a code that is no
  word of the fixed-code row (30_encoding.md R118). Raised by Machine/HostPort.lean (log 11). Safe. -/
  | notAUnitOperation
  /-- The sequencer stands before a word that is no element (log 23): only a pre-code symbol of 19 or more,
  which no tree gives (41_huffman_tree_decoder.md R158). Raised by Machine/Fetch.lean. Safe. -/
  | noElement
  deriving DecidableEq, Repr

end Sys2Proof.Machine
end

