-- ==== Sys2Proof/Machine/Flags.lean ====
section
/-! DEFINITION. The flags of the block (10_state.md R44): LAST_BLOCK_FLAG, the BUILT flags, the STATUS bits,
and the numeric error codes (60_exceptions.md R250). The block has no arithmetic condition codes. -/

namespace Sys2Proof.Machine

/-- The numeric code of an error kind, `ERROR_CODE.KIND` (60_exceptions.md R250). -/
def ErrorKind.code : ErrorKind → BitVec 4
  | .unsupportedCompressionMethod => 1
  | .unsupportedValue => 2
  | .outOfData => 3
  | .valueMismatch => 4
  | .invalidCodeLengths => 5
  | .valueOutOfBounds => 6
  | .missingEndOfBlockCode => 7
  | .invalidSymbol => 8
  | .corruptedCode => 9
  | .insufficientSpace => 10
  | .checksumMismatch => 11

/-- `STATUS.BUSY` (10_state.md R40): SEQ_STATE is none of IDLE, DONE, ERROR. -/
def State.busy (s : State) : Bool := s.seqState != .idle && s.seqState != .done && s.seqState != .error

/-- What a read of `STATUS` returns (10_state.md R40): BUSY in bit 0, DONE in bit 1, ERROR in bit 2. -/
def State.statusWord (s : State) : Word :=
  match s.seqState with
  | .idle => 0
  | .done => 2
  | .error => 4
  | _ => 1

/-- What a read of `ERROR_CODE` returns (10_state.md R40): the kind, and 0 when STATUS.ERROR = 0. -/
def State.errorCodeWord (s : State) : Word :=
  if s.seqState = .error then s.errorCode.setWidth 32 else 0

/-- What a read of `OUT_COUNT` returns (10_state.md R40): the count at DONE, 0 in every other state. -/
def State.outCountWord (s : State) : Word :=
  if s.seqState = .done then s.outCount else 0

/-- BHDR sets LAST_BLOCK_FLAG and BLOCK_TYPE (42_deflate_framing.md R174). -/
def setBlockFlags (last : Bool) (type : BitVec 2) (s : State) : State :=
  { s with lastBlockFlag := last, blockType := type }

/-- `BUILT <- 0` in the three writable stores (42_deflate_framing.md R189; 70_reset_and_hazards.md R284). -/
def discardTrees (s : State) : State :=
  { s with
    preTree := { s.preTree with built := false }
    dynLitTree := { s.dynLitTree with built := false }
    dynDistTree := { s.dynDistTree with built := false } }

end Sys2Proof.Machine
end

