-- ==== Sys2Proof/Machine/Operands.lean ====
section
/-! DEFINITION. The constant tables (10_state.md R38), the assembly of operands (30_encoding.md R119), the
canonical trees HT.BUILD makes of code lengths (41_huffman_tree_decoder.md R152) and the two constant tree
stores (R160). -/

namespace Sys2Proof.Machine

/-- `CL_ORDER` (30_encoding.md R104). -/
def clOrder : List Nat := [16, 17, 18, 0, 8, 7, 9, 6, 10, 5, 11, 4, 12, 3, 13, 2, 14, 1, 15]

/-- `LEN_BASE` (30_encoding.md R112). -/
def lenBaseTable : List Nat := [3, 4, 5, 6, 7, 8, 9, 10, 11, 13, 15, 17, 19, 23, 27, 31, 35, 43, 51, 59, 67, 83, 99, 115, 131, 163, 195, 227, 258]

/-- `LEN_EXTRA` (30_encoding.md R112). -/
def lenExtraTable : List Nat := [0, 0, 0, 0, 0, 0, 0, 0, 1, 1, 1, 1, 2, 2, 2, 2, 3, 3, 3, 3, 4, 4, 4, 4, 5, 5, 5, 5, 0]

/-- `DIST_BASE` (30_encoding.md R114, log 25). -/
def distBaseTable : List Nat := [1, 2, 3, 4, 5, 7, 9, 13, 17, 25, 33, 49, 65, 97, 129, 193, 257, 385, 513, 769, 1025, 1537, 2049, 3073, 4097, 6145, 8193, 12289, 16385, 24577]

/-- `DIST_EXTRA` (30_encoding.md R114). -/
def distExtraTable : List Nat := [0, 0, 0, 0, 1, 1, 2, 2, 3, 3, 4, 4, 5, 5, 6, 6, 7, 7, 8, 8, 9, 9, 10, 10, 11, 11, 12, 12, 13, 13]

/-- `CL_ORDER[i]`; past the table, an index no PRE_LENGTHS entry has (log 27). -/
def clOrderAt (i : Nat) : Nat := clOrder.getD i 19

/-- `LEN_BASE[k]`. -/
def lenBase (k : Nat) : Nat := lenBaseTable.getD k 0

/-- `LEN_EXTRA[k]`. -/
def lenExtra (k : Nat) : Nat := lenExtraTable.getD k 0

/-- `DIST_BASE[j]`. -/
def distBase (j : Nat) : Nat := distBaseTable.getD j 0

/-- `DIST_EXTRA[j]`. -/
def distExtra (j : Nat) : Nat := distExtraTable.getD j 0

/-- `NUM_LITERAL_CODES` of HLIT (30_encoding.md R119). -/
def literalCodesOf (hlit : BitVec 5) : BitVec 9 := BitVec.ofNat 9 (hlit.toNat + 257)

/-- `NUM_DISTANCE_CODES` of HDIST (30_encoding.md R119). -/
def distanceCodesOf (hdist : BitVec 5) : BitVec 6 := BitVec.ofNat 6 (hdist.toNat + 1)

/-- `NUM_CODE_LENGTH_CODES` of HCLEN (30_encoding.md R119). -/
def codeLengthCodesOf (hclen : BitVec 4) : BitVec 5 := BitVec.ofNat 5 (hclen.toNat + 4)

/-- The trailer checksum of its two halves (30_encoding.md R102): bytes 0-1 are `hi`, bytes 2-3 are `lo`. -/
def trailerWord (adlerHi adlerLo : BitVec 16) : Word := adlerHi ++ adlerLo

/-- `total`, the number of code lengths of a dynamic block (42_deflate_framing.md R183). -/
def State.totalLengths (s : State) : Nat := s.numLiteralCodes.toNat + s.numDistanceCodes.toNat

/-- `FIX_LIT_LENGTHS` (41_huffman_tree_decoder.md R160). -/
def fixLitLengths : List (BitVec 8) :=
  List.replicate 144 8 ++ (List.replicate 112 9 ++ (List.replicate 24 7 ++ List.replicate 8 8))

/-- `FIX_DIST_LENGTHS` (41_huffman_tree_decoder.md R160). -/
def fixDistLengths : List (BitVec 8) := List.replicate 30 5

/-- The symbols of length `L` in increasing order, from symbol `first` on (41_huffman_tree_decoder.md R152). -/
def symsOf (L : Nat) (first : Nat) : List (BitVec 8) → List (BitVec 9)
  | [] => []
  | l :: rest =>
    if l.toNat = L then BitVec.ofNat 9 first :: symsOf L (first + 1) rest else symsOf L (first + 1) rest

/-- `COUNT[L]` of code lengths; `COUNT[0]` stays 0 (41_huffman_tree_decoder.md R152). -/
def countOf (lengths : List (BitVec 8)) (L : Nat) : Nat :=
  if L = 0 then 0 else (symsOf L 0 lengths).length

/-- `FIRST_CODE[L]` of code lengths (41_huffman_tree_decoder.md R152). -/
def firstCodeOf (lengths : List (BitVec 8)) : Nat → Nat
  | 0 => 0
  | L + 1 => (firstCodeOf lengths L + countOf lengths L) * 2

/-- The tree HT.BUILD makes of code lengths (41_huffman_tree_decoder.md R152). -/
def buildTree (lengths : List (BitVec 8)) : TreeStore :=
  { numberOfSymbols := BitVec.ofNat 9 lengths.length
    firstCode := Vector.ofFn fun L => BitVec.ofNat 24 (firstCodeOf lengths L.val)
    syms := Vector.ofFn fun L => if L.val = 0 then [] else symsOf L.val 0 lengths
    built := true }

/-- The symbols `first`, `first + 1`, ..., `n` of them. -/
def symRange : Nat → Nat → List (BitVec 9)
  | _, 0 => []
  | first, n + 1 => BitVec.ofNat 9 first :: symRange (first + 1) n

/-- `FIX_LIT_TREE`, written out from 41_huffman_tree_decoder.md R160: the tree of `fixLitLengths`. -/
def fixLitTree : TreeStore :=
  { numberOfSymbols := 288
    firstCode := #v[0, 0, 0, 0, 0, 0, 0, 0, 48, 400, 1024, 2048, 4096, 8192, 16384, 32768]
    syms := #v[[], [], [], [], [], [], [], symRange 256 24, symRange 0 144 ++ symRange 280 8,
      symRange 144 112, [], [], [], [], [], []]
    built := true }

/-- `FIX_DIST_TREE`, written out from 41_huffman_tree_decoder.md R160: the tree of `fixDistLengths`. -/
def fixDistTree : TreeStore :=
  { numberOfSymbols := 30
    firstCode := #v[0, 0, 0, 0, 0, 0, 60, 120, 240, 480, 960, 1920, 3840, 7680, 15360, 30720]
    syms := #v[[], [], [], [], [], symRange 0 30, [], [], [], [], [], [], [], [], [], []]
    built := true }

/-- `SYMS[L]` of a store. -/
def TreeStore.symsAt (t : TreeStore) (L : Nat) : List (BitVec 9) := (t.syms[L]?).getD []

/-- `COUNT[L]` of a store: the number of its symbols of length `L` (10_state.md R26, log 13). -/
def TreeStore.countAt (t : TreeStore) (L : Nat) : Nat := (t.symsAt L).length

/-- `FIRST_CODE[L]` of a store. -/
def TreeStore.firstCodeAt (t : TreeStore) (L : Nat) : Nat := ((t.firstCode[L]?).getD 0).toNat

/-- The symbol of the pair (length `L`, code `c`): the pair is valid when `FIRST_CODE[L] <= c` and
`c < FIRST_CODE[L] + COUNT[L]`, and it decodes to `SYMS[L][c - FIRST_CODE[L]]` (10_state.md R26). -/
def TreeStore.lookup (t : TreeStore) (L c : Nat) : Option (BitVec 9) :=
  if t.firstCodeAt L ≤ c then (t.symsAt L)[c - t.firstCodeAt L]? else none

/-- A tree store of the block (10_state.md R27, R28). -/
def State.tree (s : State) : TreeId → TreeStore
  | .pre => s.preTree
  | .dynLit => s.dynLitTree
  | .dynDist => s.dynDistTree
  | .fixLit => fixLitTree
  | .fixDist => fixDistTree

/-- Writing a writable store; the constants cannot be written (10_state.md R28). -/
def State.setTree (s : State) (t : TreeId) (x : TreeStore) : State :=
  match t with
  | .pre => { s with preTree := x }
  | .dynLit => { s with dynLitTree := x }
  | .dynDist => { s with dynDistTree := x }
  | .fixLit | .fixDist => s

/-- The literal/length tree in use (10_state.md R29). -/
def State.litTreeInUse (s : State) : TreeId := if s.blockType = 1 then .fixLit else .dynLit

/-- The distance tree in use (10_state.md R29). -/
def State.distTreeInUse (s : State) : TreeId := if s.blockType = 1 then .fixDist else .dynDist

end Sys2Proof.Machine
end

