-- ==== Sys2Proof/Machine/Ops.lean ====
section
/-! DEFINITION. The operations the instructions share: the result of an operation, taking an error
(60_exceptions.md R256), the two memories (20_memory.md), the bit reader (40_bit_stream_reader.md), symbol
decoding (41_huffman_tree_decoder.md R156), output writes and the copy (43_lz77_expander.md R212), the
checksum unit (45_adler32_checksum.md) and the end of a block (44_decompress_top.md R230). -/

namespace Sys2Proof.Machine

/-- What an operation gives: a value and a state, an error raised in a state, or no result at all. -/
inductive Res (α : Type) where
  | ok (a : α) (s : State)
  | raised (e : ErrorKind) (s : State)
  | refused (r : Refusal)

/-- Sequencing; "a `raise` inside it propagates" (00_scope.md R11). -/
def Res.bind {α β : Type} (x : Res α) (f : α → State → Res β) : Res β :=
  match x with
  | .ok a s => f a s
  | .raised e s => .raised e s
  | .refused r => .refused r

/-! ## Taking an error -/

/-- The bytes of a memory become "any value": nothing is known of them any more (log 4). -/
def Memory.forget (m : Memory) : Memory := ⟨[], m.epoch + 1⟩

/-- `raise E` (60_exceptions.md R256): the kind is recorded, OUT_COUNT is cleared, the sequencer goes to
ERROR. There is no handler, no vector and no saved state. Every byte of OUT may then hold any value (R258). -/
def takeError (e : ErrorKind) (s : State) : State :=
  { s with errorCode := e.code, outCount := 0, seqState := .error, outMem := s.outMem.forget }

/-- The outcome of an instruction: an error it raises is taken, a next state. -/
def Res.outcome (x : Res Unit) : Host.Outcome State Fault Refusal :=
  match x with
  | .ok _ s => .next s
  | .raised e s => .next (takeError e s)
  | .refused r => .refused r

/-- An instruction that ends in a state computed from the operation's result and state. -/
def Res.outcomeWith {α : Type} (x : Res α) (f : α → State → State) : Host.Outcome State Fault Refusal :=
  (x.bind fun a s => .ok () (f a s)).outcome

/-! ## The memories -/

/-- The byte listed at an offset. -/
def lookupCell (a : Nat) : List Host.Cell → Option Byte
  | [] => none
  | (k, b) :: rest => if k = a then some b else lookupCell a rest

/-- Writing a byte into the list of cells, kept by strictly rising offset. -/
def insertCell (a : Nat) (v : Byte) : List Host.Cell → List Host.Cell
  | [] => [(a, v)]
  | (k, b) :: rest =>
    if a < k then (a, v) :: (k, b) :: rest
    else if a = k then (a, v) :: rest
    else (k, b) :: insertCell a v rest

/-- The byte written at an offset, if one has been. -/
def Memory.lookup (m : Memory) (a : Nat) : Option Byte := lookupCell a m.cells

/-- Writing one byte. -/
def Memory.write (m : Memory) (a : Nat) (v : Byte) : Memory := { m with cells := insertCell a v m.cells }

/-- Offsets strictly rising, each above `lo` when it is given. -/
def cellsSorted : Option Nat → List Host.Cell → Bool
  | _, [] => true
  | none, (k, _) :: rest => cellsSorted (some k) rest
  | some lo, (k, _) :: rest => decide (lo < k) && cellsSorted (some k) rest

/-- The canonical form of a memory: offsets strictly rising. (An unlisted offset reads as no fixed value, so
no entry can equal it; log 3.) -/
def Memory.wf (m : Memory) : Bool := cellsSorted none m.cells

/-- The byte that stands at an offset of IN (20_memory.md R60), whatever IN_SIZE is. -/
def storedIn (a : Nat) (s : State) : Byte := (s.inMem.lookup a).getD (Config.unwrittenIn s.inMem.epoch a)

/-- `MemRead(IN, a, 1)` (00_scope.md R11; 20_memory.md R62). The bytes at and beyond IN_SIZE are never read (U9, R61): the
read has no defined byte there, and gives a free value (DESIGN CHOICE, safe, log 35). -/
def memReadIn (a : Nat) (s : State) : Byte :=
  if a < s.inSize.toNat then storedIn a s else Config.beyondIn s.inMem.epoch s.inSize.toNat a

/-- `MemRead(OUT, a, 1)` (00_scope.md R11; 20_memory.md R66). -/
def memReadOut (a : Nat) (s : State) : Byte := (s.outMem.lookup a).getD (Config.unwrittenOut s.outMem.epoch a)

/-- `MemWrite(OUT, OUT_OFFSET, 1, v)` and the advance of OUT_OFFSET that follows it at once (20_memory.md R68). -/
def putOut (v : Byte) (s : State) : State :=
  { s with outMem := s.outMem.write s.outOffset.toNat v, outOffset := s.outOffset + 1 }

/-- A free value has been taken: the next one is another (log 37). -/
def takeFree (s : State) : State := { s with freeCount := s.freeCount + 1 }

/-! ## The bit reader -/

/-- `POS`, the index of the next unconsumed bit of the input (00_scope.md R12). -/
def State.pos (s : State) : Nat := 8 * s.byteStreamOffset.toNat - s.bitBufferSize.toNat

/-- The bytes of the input not yet loaded, `BYTE_STREAM_SIZE - BYTE_STREAM_OFFSET`. The difference is never negative
(10_state.md R23 (a), kept in every state, Safety.lean `Inv.bounds`; that START keeps it, with a smaller IN_SIZE and a rejected header too,
is a DESIGN CHOICE, log 19). -/
def bytesLeft (s : State) : Nat := s.byteStreamSize.toNat - s.byteStreamOffset.toNat

/-- The bits of the input not yet consumed (40_bit_stream_reader.md R134). -/
def bitsLeft (s : State) : Nat := s.bitBufferSize.toNat + 8 * bytesLeft s

/-- BR.INIT(off) (40_bit_stream_reader.md R130). -/
def brInit (off : Word) (s : State) : State :=
  { s with byteStreamSize := s.inSize, byteStreamOffset := off, bitBuffer := 0, bitBufferSize := 0 }

/-- A free value for BYTE_STREAM_OFFSET within the bound of 10_state.md R23 for a reader bound to IN (log 14, log 19). -/
def freeOffsetIn (s : State) : Word := BitVec.ofNat 32 (Config.freeOffset s.freeCount % (s.inSize.toNat + 1))

/-- BR.INIT with an operand past IN_SIZE: what R130 states happens, and BYTE_STREAM_OFFSET, whose value the spec does
not give there, is a free value within the bound of 10_state.md R23 (DESIGN CHOICE, safe, log 14). -/
def brInitPastEnd (s : State) : State := takeFree (brInit (freeOffsetIn s) s)

/-- The body of BR.READ's loop (40_bit_stream_reader.md R132): the next byte goes in at bit BIT_BUFFER_SIZE.
The byte is `MemRead(IN, BYTE_STREAM_OFFSET, 1)`: a free value where the host has lowered IN_SIZE to or below the offset
since the reader was bound (log 35). -/
def brLoadByte (s : State) : State :=
  { s with
    bitBuffer := s.bitBuffer ||| ((memReadIn s.byteStreamOffset.toNat s).setWidth 32 <<< s.bitBufferSize.toNat)
    bitBufferSize := s.bitBufferSize + 8
    byteStreamOffset := s.byteStreamOffset + 1 }

/-- `k` bytes. -/
def brLoad : Nat → State → State
  | 0, s => s
  | k + 1, s => brLoad k (brLoadByte s)

/-- BR.READ(n) (40_bit_stream_reader.md R132, R140). The bound is BYTE_STREAM_SIZE, as R132 has it; it is
IN_SIZE but where the host has lowered IN_SIZE outside a call since, and there the bytes at IN_SIZE and above are free
values (DESIGN CHOICE, log 35). -/
def brRead (n : Nat) (s : State) : Res Unit :=
  let k := (n + 7) / 8
  if 32 < n then .raised .valueOutOfBounds s
  else if bytesLeft s < k then .raised .outOfData s
  else if 32 < s.bitBufferSize.toNat + 8 * k then .refused .refillBeyond32
  else .ok () (brLoad k s)

/-- The refill of BR.GET_VALUE: `while BIT_BUFFER_SIZE < n: BR.READ(8)`; for `n` at most 32 four rounds are enough. -/
def brFill : Nat → Nat → State → Res Unit
  | 0, _, s => .ok () s
  | fuel + 1, n, s =>
    if s.bitBufferSize.toNat < n then (brRead 8 s).bind fun _ s1 => brFill fuel n s1 else .ok () s

/-- The low `n` bits of the buffer leave it (40_bit_stream_reader.md R134). -/
def brTake (n : Nat) (s : State) : State :=
  { s with bitBuffer := s.bitBuffer >>> n, bitBufferSize := s.bitBufferSize - BitVec.ofNat 6 n }

/-- BR.GET_VALUE(n) (40_bit_stream_reader.md R134). The bits come from BIT_BUFFER, as the pseudocode has it. Where the
host has rewritten a byte of IN whose bits are still buffered, or lowered IN_SIZE below it, outside a call and before a
bare operation, the bits returned are those of the byte as it was loaded (DESIGN CHOICE, unsafe, log 38). -/
def brGetValue (n : Nat) (s : State) : Res Nat :=
  if 32 < n then .raised .valueOutOfBounds s
  else if n = 0 then .ok 0 s
  else if bitsLeft s < n then .raised .outOfData s
  else (brFill 4 n s).bind fun _ s1 => .ok (s1.bitBuffer.toNat % 2 ^ n) (brTake n s1)

/-- BR.FLUSH() (40_bit_stream_reader.md R136), the element PAD. -/
def brFlush (s : State) : State := brTake (s.bitBufferSize.toNat % 8) s

/-- BR.READ_BYTE() (40_bit_stream_reader.md R138). -/
def brReadByte (s : State) : Res Byte := (brGetValue 8 s).bind fun v s1 => .ok (BitVec.ofNat 8 v) s1

/-- BR.REMAINING_BYTES() (40_bit_stream_reader.md R138). -/
def brRemainingBytes (s : State) : Nat := s.bitBufferSize.toNat / 8 + bytesLeft s

/-- `k` bits consumed one at a time, their values not used. -/
def takeBits : Nat → State → Res Unit
  | 0, s => .ok () s
  | k + 1, s => (brGetValue 1 s).bind fun _ s1 => takeBits k s1

/-- `k` bytes consumed one at a time, their values not used. -/
def takeBytes : Nat → State → Res Unit
  | 0, s => .ok () s
  | k + 1, s => (brReadByte s).bind fun _ s1 => takeBytes k s1

/-! ## Symbol decoding -/

/-- A match of HT.DECODE_SYMBOL: how many bits were read, the code they are, and the symbol. -/
structure CodeMatch where
  codeLength : Nat
  code : Nat
  symbol : BitVec 9
  deriving DecidableEq, Repr

/-- The loop of HT.DECODE_SYMBOL (41_huffman_tree_decoder.md R156): `fuel` more bits may be read, `L` have
been, and they are `c`, the first bit read the most significant. -/
def htMatchLoop (t : TreeStore) : Nat → Nat → Nat → State → Res CodeMatch
  | 0, _, _, s => .raised .corruptedCode s
  | fuel + 1, L, c, s =>
    (brGetValue 1 s).bind fun b s1 =>
      match t.lookup (L + 1) (2 * c + b) with
      | some sym => .ok ⟨L + 1, 2 * c + b, sym⟩ s1
      | none => htMatchLoop t fuel (L + 1) (2 * c + b) s1

/-- HT.DECODE_SYMBOL(T) (41_huffman_tree_decoder.md R156), with the code that matched. -/
def htMatch (t : TreeId) (s : State) : Res CodeMatch :=
  if (s.tree t).built then htMatchLoop (s.tree t) Config.maxCodeSize 0 0 s else .refused (.treeNotBuilt t)

/-- A tree of which only that it is built is known (log 40). -/
def freeTree (s : State) : TreeStore :=
  { numberOfSymbols := Config.freeNumberOfSymbols s.freeCount
    firstCode := Vector.ofFn fun L => Config.freeFirstCode s.freeCount L.val
    syms := Vector.ofFn fun L => Config.freeSyms s.freeCount L.val
    built := true }

/-- HT.BUILD(T, lengths, n) (41_huffman_tree_decoder.md R152) on a writable store. R150 has `n` from 1 to 288. R152 runs on
any `n` that the 9 bits of NUMBER_OF_SYMBOLS hold (DESIGN CHOICE, unsafe, log 40); above that the tree is a free value, but built, and
the test of the lengths stands before it all the same (DESIGN CHOICE, safe, log 40). -/
def htBuild (t : TreeId) (lengths : List (BitVec 8)) (s : State) : Res Unit :=
  if lengths.any (fun l => decide (Config.maxCodeSize < l.toNat)) then .raised .invalidCodeLengths s
  else if lengths.length < 512 then .ok () (s.setTree t (buildTree lengths))
  else .ok () (takeFree (s.setTree t (freeTree s)))

/-! ## Output -/

/-- The copy of LZ.COPY (43_lz77_expander.md R212): one byte at a time, each read seeing the writes before it. -/
def copyLoop : Nat → Nat → State → State
  | 0, _, s => s
  | k + 1, distance, s => copyLoop k distance (putOut (memReadOut (s.outOffset.toNat - distance) s) s)

/-- The copy at DISTANCE = 0: no byte below OUT_OFFSET is named, so each byte written is a free value (log 32). -/
def freeCopy : Nat → State → State
  | 0, s => s
  | k + 1, s => freeCopy k (takeFree (putOut (Config.freeByte s.freeCount) s))

/-- The two checks on a back-reference (43_lz77_expander.md R210), then LZ.COPY (R212). The sums are of naturals
and never wrap (00_scope.md R9). OUT is read only below OUT_OFFSET (20_memory.md R66): a copy at DISTANCE = 0, which
is outside the range of 10_state.md R34, has free values for the bytes it would read (DESIGN CHOICE, safe, log 32). -/
def backReference (length distance : Nat) (s : State) : Res Unit :=
  if s.outOffset.toNat < distance then .raised .valueOutOfBounds s
  else if s.outCapacity.toNat < s.outOffset.toNat + length then .raised .insufficientSpace s
  else if distance = 0 then .ok () (freeCopy length s)
  else .ok () (copyLoop length distance s)

/-- The data of a stored block (42_deflate_framing.md R176): each byte read through the bit reader and written. -/
def storedLoop : Nat → State → Res Unit
  | 0, s => .ok () s
  | k + 1, s => (brReadByte s).bind fun b s1 => storedLoop k (putOut b s1)

/-! ## The checksum unit -/

/-- ADLER.INIT(initial) (45_adler32_checksum.md R236). -/
def adlerInit (initial : Word) (s : State) : State :=
  { s with adlerLo := initial &&& 0xffff, adlerHi := initial >>> 16, adlerChunk := 0 }

/-- The reduction of both sums. -/
def adlerReduce (s : State) : State :=
  { s with adlerLo := s.adlerLo % 65521, adlerHi := s.adlerHi % 65521 }

/-- The additions of ADLER.UPDATE: `lo += byte; hi += lo` with the new `lo` (45_adler32_checksum.md R238). -/
def adlerAdd (b : Byte) (s : State) : State :=
  { s with
    adlerLo := s.adlerLo + b.setWidth 32
    adlerHi := s.adlerHi + (s.adlerLo + b.setWidth 32)
    adlerChunk := s.adlerChunk + 1 }

/-- ADLER.UPDATE(b) (45_adler32_checksum.md R238). -/
def adlerUpdate (b : Byte) (s : State) : State :=
  let s1 := adlerAdd b s
  if s1.adlerChunk = BitVec.ofNat 13 Config.adlerNmax then { adlerReduce s1 with adlerChunk := 0 } else s1

/-- The value ADLER.FINAL() returns from reduced sums: `(ADLER_HI << 16) | ADLER_LO`. -/
def adlerValue (s : State) : Word := (s.adlerHi <<< 16) ||| s.adlerLo

/-- The checksum pass over `k` bytes of OUT from offset `a` on (44_decompress_top.md R226). -/
def adlerPass : Nat → Nat → State → State
  | 0, _, s => s
  | k + 1, a, s => adlerPass k (a + 1) (adlerUpdate (memReadOut a s) s)

/-- ADLER32 of OUT[0 .. OUT_OFFSET-1] with the initial value 1: the registers after ADLER.FINAL
(44_decompress_top.md R224, R226). -/
def adlerOfOut (s : State) : State := adlerReduce (adlerPass s.outOffset.toNat 0 (adlerInit 1 s))

/-! ## The sequencer -/

/-- End of block (44_decompress_top.md R230). -/
def endOfBlock (s : State) : State :=
  let s1 := if s.blockType = 2 then discardTrees s else s
  { s1 with seqState := if s1.lastBlockFlag then .trailer else .expectBlockHeader }

/-- The sequencer goes on to a place of the running block. -/
def goto (p : Place) (s : State) : State := { s with place := p }

/-- The value a unit operation returns (log 7). -/
def setResult (v : Nat) (s : State) : State := { s with unitResult := v }

/-- START (70_reset_and_hazards.md R284), with the "at start" values of the bit buffer (10_state.md R22, log 19). The spec
gives BYTE_STREAM_OFFSET no value until the header is good, and the one it held may lie above the new BYTE_STREAM_SIZE:
it is a free value within the range of R22 and R23 (DESIGN CHOICE, safe, log 19). The registers whose value at start is
unspecified (R32, R34, R36) keep the values they hold (DESIGN CHOICE, log 33). -/
def startCall (s : State) : State :=
  takeFree (discardTrees { s with
    errorCode := 0, outCount := 0, byteStreamSize := s.inSize, byteStreamOffset := freeOffsetIn s
    bitBuffer := 0, bitBufferSize := 0
    lastBlockFlag := false, blockType := 0, outOffset := 0
    seqState := .header })

/-- Hardware reset (70_reset_and_hazards.md R280): every register at its reset value; IN and OUT hold any
value (U5, U7, log 5). The host's further moves still stand, and free values go on (log 37). -/
def hardwareReset (s : State) : State :=
  { State.reset with inMem := s.inMem.forget, outMem := s.outMem.forget, freeCount := s.freeCount, inputs := s.inputs }

end Sys2Proof.Machine
end

