-- ==== Sys2Proof/Machine/Fetch.lean ====
section
/-! DEFINITION. Which row the sequencer executes next (30_encoding.md R90, R106, R120; 44_decompress_top.md R220,
R222), what it does with a decoded symbol, and how an opcode-table word is laid where the sequencer fetches. -/

namespace Sys2Proof.Machine

/-- What stands next before the sequencer. -/
inductive Fetch where
  | instr (i : Instr)
  /-- The element's bits are not there: the rule of the element raises. -/
  | raise (e : ErrorKind)
  | refuse (r : Refusal)
  /-- IDLE, DONE, ERROR: the engine is not running. -/
  | none
  deriving DecidableEq, Repr

/-- The word decoded; a word that is no element is a literal/length symbol above 287, which is InvalidSymbol
("any symbol >= 286", R110, R214), or has no meaning at all (log 23). -/
def fetched (f : Format) (w : Nat) : Fetch :=
  match decode f w with
  | .ok i => .instr i
  | .error _ => if f = .litlen9 then .raise .invalidSymbol else .refuse .noElement

/-- A look at the stream through an operation of the bit reader; the state it leaves is not used. -/
def peek {α : Type} (x : Res α) (f : α → Fetch) : Fetch :=
  match x with
  | .ok a _ => f a
  | .raised e _ => .raise e
  | .refused r => .refuse r

/-- A raw field of the format's width (20_memory.md R73). -/
def peekField (f : Format) (s : State) : Fetch := peek (brGetValue f.width s) fun v => fetched f v

/-- The zlib header (42_deflate_framing.md R170). A missing second byte is taken as 0: byte 0 decides first, and an
acceptable byte 0 leads to ZHDR, which tests for byte 1 itself (log 22). -/
def peekHeader (s : State) : Fetch :=
  if s.inSize.toNat < 1 then .raise .outOfData
  else
    let b1 : Nat := if s.inSize.toNat < 2 then 0 else (memReadIn 1 s).toNat
    fetched .zhdr16 ((memReadIn 0 s).toNat + 256 * b1)

/-- LEN and NLEN after the PAD (42_deflate_framing.md R176), `LEN | (NLEN << 16)` (30_encoding.md R124). This is a look
only: where the fields are not all there, neither the flush nor STORED_LEN is written (DESIGN CHOICE, safe, log 34). -/
def peekStored (s : State) : Fetch :=
  peek ((brGetValue 16 (brFlush s)).bind fun len s1 =>
      (brGetValue 16 s1).bind fun nlen s2 => .ok (len + 65536 * nlen) s2)
    fun w => fetched .stored32 w

/-- Four bytes, the first the most significant (44_decompress_top.md R224). -/
def bigEndian : Nat → Nat → State → Res Nat
  | 0, acc, s => .ok acc s
  | k + 1, acc, s => (brReadByte s).bind fun b s1 => bigEndian k (256 * acc + b.toNat) s1

/-- The trailer after the PAD (44_decompress_top.md R224). This is a look only: where the bytes are not all there, the
flush is not done (DESIGN CHOICE, safe, log 34). -/
def peekTrailer (s : State) : Fetch :=
  if brRemainingBytes (brFlush s) < 4 then .raise .outOfData
  else peek (bigEndian 4 0 (brFlush s)) fun w => fetched .trailer32 w

/-- The fixed-code format of a code length (30_encoding.md R118). -/
def fixFormat (t : TreeId) (codeLength : Nat) : Option Format :=
  match t, codeLength with
  | .fixLit, 7 => some .fixlit7
  | .fixLit, 8 => some .fixlit8
  | .fixLit, 9 => some .fixlit9
  | .fixDist, 5 => some .fixdist5
  | _, _ => none

/-- The bits-to-symbol stage with a tree (30_encoding.md R106): in a fixed block the row of the code that stands
next, if one does; otherwise HT.DECODE_SYMBOL, which raises what there is to raise (log 12). -/
def codeInstr (t : TreeId) (s : State) : Instr :=
  match htMatch t s with
  | .ok m _ =>
    match fixFormat t m.codeLength with
    | some f =>
      match decode f m.code with
      | .ok i => i
      | .error _ => .htDecodeSymbol t
    | none => .htDecodeSymbol t
  | _ => .htDecodeSymbol t

/-- The row that comes next inside a Huffman block (42_deflate_framing.md R180 to R186; 43_lz77_expander.md R200). -/
def nextInBlock (s : State) : Fetch :=
  match s.place with
  | .dynhdr => peekField .dynhdr14 s
  | .prelen _ => peekField .prelen3 s
  | .clCode => .instr (codeInstr .pre s)
  | .clSym => fetched .clsym5 s.preSymbol.toNat
  | .dyntrees => .instr .dyntrees
  | .litCode => .instr (codeInstr s.litTreeInUse s)
  | .litSym => fetched .litlen9 s.symbol.toNat
  | .distCode => .instr (codeInstr s.distTreeInUse s)
  | .distSym => fetched .dist5 s.distSymbol.toNat
  | .matchCopy => .instr .matchCopy

/-- What stands next before the sequencer (44_decompress_top.md R220, R222). -/
def nextInstr (s : State) : Fetch :=
  match s.seqState with
  | .idle | .done | .error => .none
  | .header => peekHeader s
  | .expectBlockHeader => peekField .bhdr3 s
  | .storedBlock => peekStored s
  | .fixedHuffmanBlock | .dynamicHuffmanBlock => nextInBlock s
  | .trailer => peekTrailer s

/-- What the sequencer does with the symbol that a bits-to-symbol stage at `p` has returned: it goes to the
register the loop reads it from (42_deflate_framing.md R183; 43_lz77_expander.md R200, R208). A distance symbol
that DIST_SYMBOL cannot hold meets the guard of R208. After an error nothing more is done (60_exceptions.md R256). -/
def latchSymbol (p : Place) (s : State) : State :=
  if s.seqState = .error then s
  else match p with
  | .clCode => goto .clSym { s with preSymbol := BitVec.ofNat 9 s.unitResult }
  | .litCode => goto .litSym { s with symbol := BitVec.ofNat 9 s.unitResult }
  | .distCode =>
    if 32 ≤ s.unitResult then takeError .invalidSymbol s
    else goto .distSym { s with distSymbol := BitVec.ofNat 5 s.unitResult }
  | _ => s

/-- The sequencer executes Huffman blocks by place. -/
def State.inHuffmanBlock (s : State) : Bool :=
  s.seqState == .fixedHuffmanBlock || s.seqState == .dynamicHuffmanBlock

/-- What the sequencer adds after the row it has executed in state `before`. -/
def afterRow (before after : State) : State :=
  if before.inHuffmanBlock then latchSymbol before.place after else after

/-! ## Laying a word where it is fetched -/

/-- The `k` bytes of a number, the least significant first (20_memory.md R73), as the content of IN from offset 0. -/
def leCells (w : Nat) : Nat → Nat → List Host.Cell
  | 0, _ => []
  | k + 1, a => (a, BitVec.ofNat 8 w) :: leCells (w / 256) k (a + 1)

/-- The 4 bytes of a trailer word, the most significant first (20_memory.md R75). -/
def beCells (w : Nat) : List Host.Cell :=
  [(0, BitVec.ofNat 8 (w / 16777216)), (1, BitVec.ofNat 8 (w / 65536)), (2, BitVec.ofNat 8 (w / 256)), (3, BitVec.ofNat 8 w)]

/-- IN holds `n` bytes and the bit reader stands at its start. -/
def bindInput (cells : List Host.Cell) (n : Nat) (s : State) : State :=
  brInit 0 { s with inMem := ⟨cells, s.inMem.epoch⟩, inSize := BitVec.ofNat 32 n, inputs := [] }

/-- The bits of a raw field or of the extra bits after a symbol, in 8 bytes of IN (the bytes above are 0). -/
def bindBits (w : Nat) (s : State) : State := bindInput (leCells w 8 0) 8 s

/-- The state in which the sequencer's next word, in the format `f`, is `w` (log 20, log 21). A symbol word stands
in the register its element is selected by (30_encoding.md R106), and the raw bits above it stand next in IN. -/
def placeWord (f : Format) (w : Nat) (s : State) : State :=
  match f with
  | .zhdr16 => { bindInput (leCells w 2 0) 2 s with seqState := .header }
  | .bhdr3 => { bindBits w s with seqState := .expectBlockHeader }
  | .stored32 => { bindBits w s with seqState := .storedBlock }
  | .dynhdr14 => { bindBits w s with seqState := .dynamicHuffmanBlock, blockType := 2, place := .dynhdr }
  | .prelen3 => { bindBits w s with seqState := .dynamicHuffmanBlock, blockType := 2, place := .prelen 0 }
  | .clsym5 =>
    { bindBits (w / 32) s with
      seqState := .dynamicHuffmanBlock, blockType := 2, place := .clSym, preSymbol := BitVec.ofNat 9 (w % 32) }
  | .litlen9 =>
    { bindBits (w / 512) s with
      seqState := .fixedHuffmanBlock, blockType := 1, place := .litSym, symbol := BitVec.ofNat 9 w }
  | .dist5 =>
    { bindBits (w / 32) s with
      seqState := .fixedHuffmanBlock, blockType := 1, place := .distSym, distSymbol := BitVec.ofNat 5 w }
  | .trailer32 => { bindInput (beCells w) 4 s with seqState := .trailer }
  | .ctrl32 => { s with inputs := .host (.writeReg 0 (BitVec.ofNat 32 w)) :: s.inputs }
  | .fixlit7 | .fixlit8 | .fixlit9 | .fixdist5 => s

end Sys2Proof.Machine
end

