-- ==== Sys2Proof/Machine/Expander.lean ====
section
/-! DEFINITION. The meanings of the symbols of a Huffman block: literals, end of block, lengths, distances,
the back-reference (43_lz77_expander.md). -/

namespace Sys2Proof.Machine

/-- LIT (43_lz77_expander.md R202). -/
def execLit (byte : Byte) (s : State) : Host.Outcome State Fault Refusal :=
  if s.outCapacity.toNat ≤ s.outOffset.toNat then .next (takeError .insufficientSpace s)
  else .next (goto .litCode (putOut byte s))

/-- EOB (43_lz77_expander.md R204; 44_decompress_top.md R230). -/
def execEob (s : State) : Host.Outcome State Fault Refusal := .next (endOfBlock s)

/-- LEN.k (43_lz77_expander.md R206): the base and the extra bits; a distance code comes next (R208). -/
def lengthElement (k : Nat) (s : State) : Host.Outcome State Fault Refusal :=
  (brGetValue (lenExtra k) s).outcomeWith fun e s1 =>
    goto .distCode { s1 with length := BitVec.ofNat 9 (lenBase k + e) }

/-- DIST.j after its symbol (43_lz77_expander.md R208): the base and the extra bits; the checks and the copy come
next (R210). -/
def distanceElement (j : Nat) (s : State) : Host.Outcome State Fault Refusal :=
  (brGetValue (distExtra j) s).outcomeWith fun e s1 =>
    goto .matchCopy { s1 with distance := BitVec.ofNat 16 (distBase j + e) }

/-- LEN.0 (R206). -/
def execLen0 (s : State) : Host.Outcome State Fault Refusal := lengthElement 0 s

/-- LEN.1 (R206). -/
def execLen1 (s : State) : Host.Outcome State Fault Refusal := lengthElement 1 s

/-- LEN.2 (R206). -/
def execLen2 (s : State) : Host.Outcome State Fault Refusal := lengthElement 2 s

/-- LEN.3 (R206). -/
def execLen3 (s : State) : Host.Outcome State Fault Refusal := lengthElement 3 s

/-- LEN.4 (R206). -/
def execLen4 (s : State) : Host.Outcome State Fault Refusal := lengthElement 4 s

/-- LEN.5 (R206). -/
def execLen5 (s : State) : Host.Outcome State Fault Refusal := lengthElement 5 s

/-- LEN.6 (R206). -/
def execLen6 (s : State) : Host.Outcome State Fault Refusal := lengthElement 6 s

/-- LEN.7 (R206). -/
def execLen7 (s : State) : Host.Outcome State Fault Refusal := lengthElement 7 s

/-- LEN.8 (R206). -/
def execLen8 (s : State) : Host.Outcome State Fault Refusal := lengthElement 8 s

/-- LEN.9 (R206). -/
def execLen9 (s : State) : Host.Outcome State Fault Refusal := lengthElement 9 s

/-- LEN.10 (R206). -/
def execLen10 (s : State) : Host.Outcome State Fault Refusal := lengthElement 10 s

/-- LEN.11 (R206). -/
def execLen11 (s : State) : Host.Outcome State Fault Refusal := lengthElement 11 s

/-- LEN.12 (R206). -/
def execLen12 (s : State) : Host.Outcome State Fault Refusal := lengthElement 12 s

/-- LEN.13 (R206). -/
def execLen13 (s : State) : Host.Outcome State Fault Refusal := lengthElement 13 s

/-- LEN.14 (R206). -/
def execLen14 (s : State) : Host.Outcome State Fault Refusal := lengthElement 14 s

/-- LEN.15 (R206). -/
def execLen15 (s : State) : Host.Outcome State Fault Refusal := lengthElement 15 s

/-- LEN.16 (R206). -/
def execLen16 (s : State) : Host.Outcome State Fault Refusal := lengthElement 16 s

/-- LEN.17 (R206). -/
def execLen17 (s : State) : Host.Outcome State Fault Refusal := lengthElement 17 s

/-- LEN.18 (R206). -/
def execLen18 (s : State) : Host.Outcome State Fault Refusal := lengthElement 18 s

/-- LEN.19 (R206). -/
def execLen19 (s : State) : Host.Outcome State Fault Refusal := lengthElement 19 s

/-- LEN.20 (R206). -/
def execLen20 (s : State) : Host.Outcome State Fault Refusal := lengthElement 20 s

/-- LEN.21 (R206). -/
def execLen21 (s : State) : Host.Outcome State Fault Refusal := lengthElement 21 s

/-- LEN.22 (R206). -/
def execLen22 (s : State) : Host.Outcome State Fault Refusal := lengthElement 22 s

/-- LEN.23 (R206). -/
def execLen23 (s : State) : Host.Outcome State Fault Refusal := lengthElement 23 s

/-- LEN.24 (R206). -/
def execLen24 (s : State) : Host.Outcome State Fault Refusal := lengthElement 24 s

/-- LEN.25 (R206). -/
def execLen25 (s : State) : Host.Outcome State Fault Refusal := lengthElement 25 s

/-- LEN.26 (R206). -/
def execLen26 (s : State) : Host.Outcome State Fault Refusal := lengthElement 26 s

/-- LEN.27 (R206). -/
def execLen27 (s : State) : Host.Outcome State Fault Refusal := lengthElement 27 s

/-- LEN.28 (R206). -/
def execLen28 (s : State) : Host.Outcome State Fault Refusal := lengthElement 28 s

/-- Literal/length symbol 286 (43_lz77_expander.md R214). -/
def execLitlenRsvd286 (s : State) : Host.Outcome State Fault Refusal := .next (takeError .invalidSymbol s)

/-- Literal/length symbol 287 (43_lz77_expander.md R214). -/
def execLitlenRsvd287 (s : State) : Host.Outcome State Fault Refusal := .next (takeError .invalidSymbol s)

/-- DIST.0 (R208). -/
def execDist0 (s : State) : Host.Outcome State Fault Refusal := distanceElement 0 s

/-- DIST.1 (R208). -/
def execDist1 (s : State) : Host.Outcome State Fault Refusal := distanceElement 1 s

/-- DIST.2 (R208). -/
def execDist2 (s : State) : Host.Outcome State Fault Refusal := distanceElement 2 s

/-- DIST.3 (R208). -/
def execDist3 (s : State) : Host.Outcome State Fault Refusal := distanceElement 3 s

/-- DIST.4 (R208). -/
def execDist4 (s : State) : Host.Outcome State Fault Refusal := distanceElement 4 s

/-- DIST.5 (R208). -/
def execDist5 (s : State) : Host.Outcome State Fault Refusal := distanceElement 5 s

/-- DIST.6 (R208). -/
def execDist6 (s : State) : Host.Outcome State Fault Refusal := distanceElement 6 s

/-- DIST.7 (R208). -/
def execDist7 (s : State) : Host.Outcome State Fault Refusal := distanceElement 7 s

/-- DIST.8 (R208). -/
def execDist8 (s : State) : Host.Outcome State Fault Refusal := distanceElement 8 s

/-- DIST.9 (R208). -/
def execDist9 (s : State) : Host.Outcome State Fault Refusal := distanceElement 9 s

/-- DIST.10 (R208). -/
def execDist10 (s : State) : Host.Outcome State Fault Refusal := distanceElement 10 s

/-- DIST.11 (R208). -/
def execDist11 (s : State) : Host.Outcome State Fault Refusal := distanceElement 11 s

/-- DIST.12 (R208). -/
def execDist12 (s : State) : Host.Outcome State Fault Refusal := distanceElement 12 s

/-- DIST.13 (R208). -/
def execDist13 (s : State) : Host.Outcome State Fault Refusal := distanceElement 13 s

/-- DIST.14 (R208). -/
def execDist14 (s : State) : Host.Outcome State Fault Refusal := distanceElement 14 s

/-- DIST.15 (R208). -/
def execDist15 (s : State) : Host.Outcome State Fault Refusal := distanceElement 15 s

/-- DIST.16 (R208). -/
def execDist16 (s : State) : Host.Outcome State Fault Refusal := distanceElement 16 s

/-- DIST.17 (R208). -/
def execDist17 (s : State) : Host.Outcome State Fault Refusal := distanceElement 17 s

/-- DIST.18 (R208). -/
def execDist18 (s : State) : Host.Outcome State Fault Refusal := distanceElement 18 s

/-- DIST.19 (R208). -/
def execDist19 (s : State) : Host.Outcome State Fault Refusal := distanceElement 19 s

/-- DIST.20 (R208). -/
def execDist20 (s : State) : Host.Outcome State Fault Refusal := distanceElement 20 s

/-- DIST.21 (R208). -/
def execDist21 (s : State) : Host.Outcome State Fault Refusal := distanceElement 21 s

/-- DIST.22 (R208). -/
def execDist22 (s : State) : Host.Outcome State Fault Refusal := distanceElement 22 s

/-- DIST.23 (R208). -/
def execDist23 (s : State) : Host.Outcome State Fault Refusal := distanceElement 23 s

/-- DIST.24 (R208). -/
def execDist24 (s : State) : Host.Outcome State Fault Refusal := distanceElement 24 s

/-- DIST.25 (R208). -/
def execDist25 (s : State) : Host.Outcome State Fault Refusal := distanceElement 25 s

/-- DIST.26 (R208). -/
def execDist26 (s : State) : Host.Outcome State Fault Refusal := distanceElement 26 s

/-- DIST.27 (R208). -/
def execDist27 (s : State) : Host.Outcome State Fault Refusal := distanceElement 27 s

/-- DIST.28 (R208). -/
def execDist28 (s : State) : Host.Outcome State Fault Refusal := distanceElement 28 s

/-- DIST.29 (R208). -/
def execDist29 (s : State) : Host.Outcome State Fault Refusal := distanceElement 29 s

/-- Distance symbol 30: the guard of 43_lz77_expander.md R208 (R216, D23). -/
def execDistRsvd30 (s : State) : Host.Outcome State Fault Refusal := .next (takeError .invalidSymbol s)

/-- Distance symbol 31: the guard of 43_lz77_expander.md R208 (R216, D23). -/
def execDistRsvd31 (s : State) : Host.Outcome State Fault Refusal := .next (takeError .invalidSymbol s)

/-- MATCH (43_lz77_expander.md R210, R212): the two checks on LENGTH and DISTANCE, then the copy. Issued bare while
DISTANCE still holds 0 it writes free values (DESIGN CHOICE, safe, log 32). -/
def execMatchCopy (s : State) : Host.Outcome State Fault Refusal :=
  (backReference s.length.toNat s.distance.toNat s).outcomeWith fun _ s1 => goto .litCode s1

/-- LZ.COPY on its own (43_lz77_expander.md R212): it makes the checks of R210 first, as the vectors L18 and L19 of
95_test_vectors.md have it (log 17). A LENGTH or a DISTANCE outside the ranges of 10_state.md R34 is copied by the same
pseudocode (DESIGN CHOICE, unsafe, log 40), at DISTANCE = 0 with free values for the bytes (log 32). -/
def execLzCopy (length : BitVec 9) (distance : BitVec 16) (s : State) : Host.Outcome State Fault Refusal :=
  (backReference length.toNat distance.toNat s).outcome

end Sys2Proof.Machine
end

