-- ==== Sys2Proof/Machine/FixCodes.lean ====
section
/-! DEFINITION. The meanings of the fixed-code rows (30_encoding.md R118): the bits-to-symbol stage of a fixed
block (R106). The code's bits are consumed one at a time, as HT.DECODE_SYMBOL does (41_huffman_tree_decoder.md
R156), and the symbol `first + (code - first code)` is returned (log 12). -/

namespace Sys2Proof.Machine

/-- A code of `n` bits that stands for `symbol`. -/
def fixedCode (n symbol : Nat) (s : State) : Host.Outcome State Fault Refusal :=
  (takeBits n s).outcomeWith fun _ s1 => setResult symbol s1

/-- FIXLIT.7: codes 0 .. 23 are the symbols 256 .. 279. -/
def execFixlit7 (code : BitVec 7) (s : State) : Host.Outcome State Fault Refusal :=
  fixedCode 7 (256 + code.toNat) s

/-- FIXLIT.8A: codes 48 .. 191 are the symbols 0 .. 143. -/
def execFixlit8a (code : BitVec 8) (s : State) : Host.Outcome State Fault Refusal :=
  fixedCode 8 (code.toNat - 48) s

/-- FIXLIT.8B: codes 192 .. 199 are the symbols 280 .. 287. -/
def execFixlit8b (code : BitVec 8) (s : State) : Host.Outcome State Fault Refusal :=
  fixedCode 8 (280 + (code.toNat - 192)) s

/-- FIXLIT.9: codes 400 .. 511 are the symbols 144 .. 255. -/
def execFixlit9 (code : BitVec 9) (s : State) : Host.Outcome State Fault Refusal :=
  fixedCode 9 (144 + (code.toNat - 400)) s

/-- FIXDIST.5: codes 0 .. 29 are the distance symbols 0 .. 29. -/
def execFixdist5 (code : BitVec 5) (s : State) : Host.Outcome State Fault Refusal :=
  fixedCode 5 code.toNat s

end Sys2Proof.Machine
end

