-- ==== Sys2Proof/Machine/Framing.lean ====
section
/-! DEFINITION. The meanings of the stream header, the block headers, the stored block and the tree
description of a dynamic block (42_deflate_framing.md). -/

namespace Sys2Proof.Machine

/-- ZHDR (42_deflate_framing.md R170): the header is accepted. The five tests are in stream order; the tests
of the fields are the decoder's, and the two tests of IN_SIZE stand where R170 has them. -/
def execZhdr (_cinfo : BitVec 3) (_fcheck : BitVec 5) (_flevel : BitVec 2) (s : State) :
    Host.Outcome State Fault Refusal :=
  if s.inSize.toNat < 2 then .next (takeError .outOfData s)
  else .next { brInit 2 s with outOffset := 0, seqState := .expectBlockHeader }

/-- ZHDR.BADWINDOW (R170): byte 0 alone decides. -/
def execZhdrBadwindow (_cinfo : BitVec 3) (_fcheck : BitVec 5) (_fdict : BitVec 1) (_flevel : BitVec 2) (s : State) :
    Host.Outcome State Fault Refusal :=
  if s.inSize.toNat < 1 then .next (takeError .outOfData s) else .next (takeError .unsupportedValue s)

/-- ZHDR.FDICT (R170): byte 1 must be there. -/
def execZhdrFdict (_cinfo : BitVec 3) (_fcheck : BitVec 5) (_flevel : BitVec 2) (s : State) :
    Host.Outcome State Fault Refusal :=
  if s.inSize.toNat < 2 then .next (takeError .outOfData s) else .next (takeError .unsupportedValue s)

/-- ZHDR.BADCM (R170): byte 0 alone decides. -/
def execZhdrBadcm (_cm _cinfo : BitVec 4) (_fcheck : BitVec 5) (_fdict : BitVec 1) (_flevel : BitVec 2) (s : State) :
    Host.Outcome State Fault Refusal :=
  if s.inSize.toNat < 1 then .next (takeError .outOfData s)
  else .next (takeError .unsupportedCompressionMethod s)

/-- BHDR (42_deflate_framing.md R174): 3 bits are read, the two flags are set. -/
def blockHeader (last : Bool) (type : BitVec 2) (s : State) : Res Unit :=
  (brGetValue 3 s).bind fun _ s1 => .ok () (setBlockFlags last type s1)

/-- BHDR.STORED (R174, R175). -/
def execBhdrStored (last : Bool) (s : State) : Host.Outcome State Fault Refusal :=
  (blockHeader last 0 s).outcomeWith fun _ s1 => { s1 with seqState := .storedBlock }

/-- BHDR.FIXED (R174, R178): the symbol loop starts. -/
def execBhdrFixed (last : Bool) (s : State) : Host.Outcome State Fault Refusal :=
  (blockHeader last 1 s).outcomeWith fun _ s1 => goto .litCode { s1 with seqState := .fixedHuffmanBlock }

/-- BHDR.DYNAMIC (R174, R180): DYNHDR comes next. -/
def execBhdrDynamic (last : Bool) (s : State) : Host.Outcome State Fault Refusal :=
  (blockHeader last 2 s).outcomeWith fun _ s1 => goto .dynhdr { s1 with seqState := .dynamicHuffmanBlock }

/-- BHDR.RESERVED (R174, R179). -/
def execBhdrReserved (last : Bool) (s : State) : Host.Outcome State Fault Refusal :=
  ((blockHeader last 3 s).bind fun _ s1 => Res.raised (α := Unit) .unsupportedValue s1).outcome

/-- PAD and STORED (42_deflate_framing.md R176): flush, the two fields, the three tests in order, the copy, the
end of the block. -/
def execStored (len nlen : BitVec 16) (s : State) : Host.Outcome State Fault Refusal :=
  Res.outcome <|
    (brGetValue 16 (brFlush s)).bind fun _ s1 =>
      (brGetValue 16 { s1 with storedLen := len }).bind fun _ s2 =>
        let s3 := { s2 with storedNlen := nlen }
        if s3.storedLen ^^^ s3.storedNlen ≠ 0xffff then .raised .valueMismatch s3
        else if s3.outCapacity.toNat < s3.outOffset.toNat + s3.storedLen.toNat then .raised .insufficientSpace s3
        else if brRemainingBytes s3 < s3.storedLen.toNat then .raised .insufficientSpace s3
        else (storedLoop s3.storedLen.toNat s3).bind fun _ s4 => .ok () (endOfBlock s4)

/-- DYNHDR (42_deflate_framing.md R181). -/
def execDynhdr (hlit hdist : BitVec 5) (hclen : BitVec 4) (s : State) : Host.Outcome State Fault Refusal :=
  Res.outcome <|
    (brGetValue 14 s).bind fun _ s1 =>
      let s2 := { s1 with
        numLiteralCodes := literalCodesOf hlit
        numDistanceCodes := distanceCodesOf hdist
        numCodeLengthCodes := codeLengthCodesOf hclen }
      if 286 < s2.numLiteralCodes.toNat ∨ 30 < s2.numDistanceCodes.toNat then .raised .valueOutOfBounds s2
      else .ok () (goto (.prelen 0) s2)

/-- The loop index of R182: which PRELEN comes next. -/
def Place.prelenIndex : Place → Nat
  | .prelen i => i
  | _ => 0

/-- One pre-code length is stored at `CL_ORDER[i]`; before the first all are cleared (R182). -/
def storePreLength (i : Nat) (length : BitVec 3) (s : State) : State :=
  let cleared : Vector (BitVec 3) 19 := if i = 0 then Vector.replicate 19 0 else s.preLengths
  { s with preLengths := cleared.setIfInBounds (clOrderAt i) length }

/-- The code lengths of the pre-code, as HT.BUILD takes them. -/
def preCodeLengths (s : State) : List (BitVec 8) := s.preLengths.toList.map (·.setWidth 8)

/-- PRELEN (42_deflate_framing.md R182): one length; after the last of NUM_CODE_LENGTH_CODES, PRE_TREE is built
and CL_INDEX cleared. PRE_LENGTHS is cleared together with the first length, so not where that field is not all
there (DESIGN CHOICE, safe, log 34). -/
def execPrelen (length : BitVec 3) (s : State) : Host.Outcome State Fault Refusal :=
  Res.outcome <|
    (brGetValue 3 s).bind fun _ s1 =>
      let i := s1.place.prelenIndex
      let s2 := storePreLength i length s1
      if i + 1 < s2.numCodeLengthCodes.toNat then .ok () (goto (.prelen (i + 1)) s2)
      else (htBuild .pre (preCodeLengths s2) s2).bind fun _ s3 => .ok () (goto .clCode { s3 with clIndex := 0 })

/-- `CODE_LENGTHS[CL_INDEX] <- v ; CL_INDEX <- CL_INDEX + 1` (42_deflate_framing.md R184). -/
def appendLength (v : BitVec 4) (s : State) : State :=
  { s with codeLengths := s.codeLengths.setIfInBounds s.clIndex.toNat v, clIndex := s.clIndex + 1 }

/-- `r` times the same length (R185). -/
def appendLengths : Nat → BitVec 4 → State → State
  | 0, _, s => s
  | r + 1, v, s => appendLengths r v (appendLength v s)

/-- The test of the code-length loop (42_deflate_framing.md R183). -/
def codeLengthLoop (s : State) : State :=
  if s.clIndex.toNat < s.totalLengths then goto .clCode s else goto .dyntrees s

/-- A repeat of `r` lengths, after its extra bits (R185, R187, R188): the overflow test, then the entries. -/
def repeatLength (r : Nat) (v : BitVec 4) (s : State) : Res Unit :=
  if s.totalLengths < s.clIndex.toNat + r then .raised .valueOutOfBounds s
  else .ok () (codeLengthLoop (appendLengths r v s))

/-- CL.LEN (42_deflate_framing.md R184). -/
def execClLen (length : BitVec 4) (s : State) : Host.Outcome State Fault Refusal :=
  .next (codeLengthLoop (appendLength length s))

/-- `CODE_LENGTHS[CL_INDEX - 1]` (R185). -/
def previousLength (s : State) : BitVec 4 := (s.codeLengths[s.clIndex.toNat - 1]?).getD 0

/-- CL.REP (42_deflate_framing.md R185). -/
def execClRep (s : State) : Host.Outcome State Fault Refusal :=
  Res.outcome <|
    if s.clIndex = 0 then .raised .valueOutOfBounds s
    else (brGetValue 2 s).bind fun e s1 => repeatLength (3 + e) (previousLength s1) s1

/-- CL.ZREP3 (42_deflate_framing.md R187). -/
def execClZrep3 (s : State) : Host.Outcome State Fault Refusal :=
  ((brGetValue 3 s).bind fun e s1 => repeatLength (3 + e) 0 s1).outcome

/-- CL.ZREP11 (42_deflate_framing.md R188). -/
def execClZrep11 (s : State) : Host.Outcome State Fault Refusal :=
  ((brGetValue 7 s).bind fun e s1 => repeatLength (11 + e) 0 s1).outcome

/-- `CODE_LENGTHS[j]`; past its 316 entries, which only a bare DYNTREES after a rejected DYNHDR asks for, a free value
(DESIGN CHOICE, safe, log 36). -/
def codeLengthAt (s : State) (j : Nat) : BitVec 4 := (s.codeLengths[j]?).getD (Config.freeLength s.freeCount j)

/-- `n` entries of CODE_LENGTHS from `first` on, as HT.BUILD takes them. -/
def codeLengthsFrom (first n : Nat) (s : State) : List (BitVec 8) :=
  (List.range n).map fun j => (codeLengthAt s (first + j)).setWidth 8

/-- `CODE_LENGTHS[0 .. NUM_LITERAL_CODES-1]` (42_deflate_framing.md R186). -/
def literalLengths (s : State) : List (BitVec 8) := codeLengthsFrom 0 s.numLiteralCodes.toNat s

/-- `CODE_LENGTHS[NUM_LITERAL_CODES .. total-1]` (42_deflate_framing.md R186). -/
def distanceLengths (s : State) : List (BitVec 8) :=
  codeLengthsFrom s.numLiteralCodes.toNat s.numDistanceCodes.toNat s

/-- The free values DYNTREES has taken, if entries past the 316 were asked for (log 36). -/
def takeFreeLengths (s : State) : State := if 316 < s.totalLengths then takeFree s else s

/-- DYNTREES (42_deflate_framing.md R186): the end-of-block-code test, then the two trees; the symbol loop starts
(R180). R186 has it executed when CL_INDEX = total, as the sequencer does; issued bare while CL_INDEX differs from total
it does the same with CODE_LENGTHS as they stand (DESIGN CHOICE, unsafe, log 39). -/
def execDyntrees (s : State) : Host.Outcome State Fault Refusal :=
  Res.outcome <|
    if s.codeLengths[256] = 0 then .raised .missingEndOfBlockCode s
    else (htBuild .dynLit (literalLengths s) s).bind fun _ s1 =>
      (htBuild .dynDist (distanceLengths s1) s1).bind fun _ s2 => .ok () (goto .litCode (takeFreeLengths s2))

end Sys2Proof.Machine
end

