-- ==== Sys2Proof/Machine/Top.lean ====
section
/-! DEFINITION. The meanings of the host command DECOMPRESS and of the trailer (44_decompress_top.md). -/

namespace Sys2Proof.Machine

/-- DECOMPRESS (44_decompress_top.md R220): a call starts (70_reset_and_hazards.md R284); while BUSY the write is
ignored (R286). Bits 31:1 of CTRL are ignored (10_state.md R40). -/
def execDecompress (_ignored : BitVec 31) (s : State) : Host.Outcome State Fault Refusal :=
  if s.busy then .next s else .next (startCall s)

/-- PAD and TRAILER (44_decompress_top.md R224, R226), and DONE (R228). -/
def execTrailer (adlerHi adlerLo : BitVec 16) (s : State) : Host.Outcome State Fault Refusal :=
  Res.outcome <|
    let s1 := brFlush s
    if brRemainingBytes s1 < 4 then .raised .outOfData s1
    else (takeBytes 4 s1).bind fun _ s2 =>
      let s3 := adlerOfOut s2
      if trailerWord adlerHi adlerLo ≠ adlerValue s3 then .raised .checksumMismatch s3
      else .ok () { s3 with outCount := s3.outOffset, seqState := .done }

end Sys2Proof.Machine
end

