-- ==== Sys2Proof/Machine/Units.lean ====
section
/-! DEFINITION. The meanings of the unit operations of the bit reader, the Huffman tree decoder and the checksum
unit (40_bit_stream_reader.md, 41_huffman_tree_decoder.md, 45_adler32_checksum.md). What an operation returns
stands in `unitResult` (log 7). -/

namespace Sys2Proof.Machine

/-- BR.INIT (40_bit_stream_reader.md R130); its operand is in its range up to IN_SIZE (log 14). -/
def execBrInit (off : Word) (s : State) : Host.Outcome State Fault Refusal :=
  if s.inSize.toNat < off.toNat then .next (brInitPastEnd s) else .next (brInit off s)

/-- BR.READ (R132). -/
def execBrRead (n : Nat) (s : State) : Host.Outcome State Fault Refusal := (brRead n s).outcome

/-- BR.GET_VALUE (R134). -/
def execBrGetValue (n : Nat) (s : State) : Host.Outcome State Fault Refusal :=
  (brGetValue n s).outcomeWith fun v s1 => setResult v s1

/-- BR.FLUSH (R136). -/
def execBrFlush (s : State) : Host.Outcome State Fault Refusal := .next (brFlush s)

/-- BR.READ_BYTE (R138). -/
def execBrReadByte (s : State) : Host.Outcome State Fault Refusal :=
  (brReadByte s).outcomeWith fun b s1 => setResult b.toNat s1

/-- BR.REMAINING_BYTES (R138). -/
def execBrRemainingBytes (s : State) : Host.Outcome State Fault Refusal :=
  .next (setResult (brRemainingBytes s) s)

/-- HT.BUILD (41_huffman_tree_decoder.md R150, R152). A constant store is read-only (10_state.md R28): building it
again from its own lengths changes nothing, and any other build of it has no result (log 16). The number of lengths is
not bound to the range of R150 (log 40). -/
def execHtBuild (tree : TreeId) (codeLengths : List (BitVec 8)) (s : State) : Host.Outcome State Fault Refusal :=
  ((htBuild tree codeLengths s).bind fun _ s1 =>
    if tree.writable || (codeLengths.length < 512 && buildTree codeLengths == s1.tree tree) then .ok () s1
    else .refused (.readOnlyTree tree)).outcome

/-- HT.DECODE_SYMBOL (R156). -/
def execHtDecodeSymbol (tree : TreeId) (s : State) : Host.Outcome State Fault Refusal :=
  (htMatch tree s).outcomeWith fun m s1 => setResult m.symbol.toNat s1

/-- ADLER.INIT (45_adler32_checksum.md R236). -/
def execAdlerInit (initial : Word) (s : State) : Host.Outcome State Fault Refusal := .next (adlerInit initial s)

/-- ADLER.UPDATE (R238). -/
def execAdlerUpdate (byte : Byte) (s : State) : Host.Outcome State Fault Refusal := .next (adlerUpdate byte s)

/-- ADLER.FINAL (R242). -/
def execAdlerFinal (s : State) : Host.Outcome State Fault Refusal :=
  .next (setResult (adlerValue (adlerReduce s)).toNat (adlerReduce s))

end Sys2Proof.Machine
end

