-- ==== Sys2Proof/Machine/Dispatch.lean ====
section
/-! DEFINITION. One arm per row of spec/opcode_table.json. -/

namespace Sys2Proof.Machine

def exec (i : Instr) (s : State) : Host.Outcome State Fault Refusal :=
  match i with
  | .zhdr cinfo fcheck flevel => Sys2Proof.Machine.execZhdr cinfo fcheck flevel s
  | .zhdrBadwindow cinfo fcheck fdict flevel => Sys2Proof.Machine.execZhdrBadwindow cinfo fcheck fdict flevel s
  | .zhdrFdict cinfo fcheck flevel => Sys2Proof.Machine.execZhdrFdict cinfo fcheck flevel s
  | .zhdrBadcm cm cinfo fcheck fdict flevel => Sys2Proof.Machine.execZhdrBadcm cm cinfo fcheck fdict flevel s
  | .bhdrStored last => Sys2Proof.Machine.execBhdrStored last s
  | .bhdrFixed last => Sys2Proof.Machine.execBhdrFixed last s
  | .bhdrDynamic last => Sys2Proof.Machine.execBhdrDynamic last s
  | .bhdrReserved last => Sys2Proof.Machine.execBhdrReserved last s
  | .stored len nlen => Sys2Proof.Machine.execStored len nlen s
  | .dynhdr hlit hdist hclen => Sys2Proof.Machine.execDynhdr hlit hdist hclen s
  | .prelen length => Sys2Proof.Machine.execPrelen length s
  | .clLen length => Sys2Proof.Machine.execClLen length s
  | .clRep => Sys2Proof.Machine.execClRep s
  | .clZrep3 => Sys2Proof.Machine.execClZrep3 s
  | .clZrep11 => Sys2Proof.Machine.execClZrep11 s
  | .lit byte => Sys2Proof.Machine.execLit byte s
  | .eob => Sys2Proof.Machine.execEob s
  | .len0 => Sys2Proof.Machine.execLen0 s
  | .len1 => Sys2Proof.Machine.execLen1 s
  | .len2 => Sys2Proof.Machine.execLen2 s
  | .len3 => Sys2Proof.Machine.execLen3 s
  | .len4 => Sys2Proof.Machine.execLen4 s
  | .len5 => Sys2Proof.Machine.execLen5 s
  | .len6 => Sys2Proof.Machine.execLen6 s
  | .len7 => Sys2Proof.Machine.execLen7 s
  | .len8 => Sys2Proof.Machine.execLen8 s
  | .len9 => Sys2Proof.Machine.execLen9 s
  | .len10 => Sys2Proof.Machine.execLen10 s
  | .len11 => Sys2Proof.Machine.execLen11 s
  | .len12 => Sys2Proof.Machine.execLen12 s
  | .len13 => Sys2Proof.Machine.execLen13 s
  | .len14 => Sys2Proof.Machine.execLen14 s
  | .len15 => Sys2Proof.Machine.execLen15 s
  | .len16 => Sys2Proof.Machine.execLen16 s
  | .len17 => Sys2Proof.Machine.execLen17 s
  | .len18 => Sys2Proof.Machine.execLen18 s
  | .len19 => Sys2Proof.Machine.execLen19 s
  | .len20 => Sys2Proof.Machine.execLen20 s
  | .len21 => Sys2Proof.Machine.execLen21 s
  | .len22 => Sys2Proof.Machine.execLen22 s
  | .len23 => Sys2Proof.Machine.execLen23 s
  | .len24 => Sys2Proof.Machine.execLen24 s
  | .len25 => Sys2Proof.Machine.execLen25 s
  | .len26 => Sys2Proof.Machine.execLen26 s
  | .len27 => Sys2Proof.Machine.execLen27 s
  | .len28 => Sys2Proof.Machine.execLen28 s
  | .litlenRsvd286 => Sys2Proof.Machine.execLitlenRsvd286 s
  | .litlenRsvd287 => Sys2Proof.Machine.execLitlenRsvd287 s
  | .dist0 => Sys2Proof.Machine.execDist0 s
  | .dist1 => Sys2Proof.Machine.execDist1 s
  | .dist2 => Sys2Proof.Machine.execDist2 s
  | .dist3 => Sys2Proof.Machine.execDist3 s
  | .dist4 => Sys2Proof.Machine.execDist4 s
  | .dist5 => Sys2Proof.Machine.execDist5 s
  | .dist6 => Sys2Proof.Machine.execDist6 s
  | .dist7 => Sys2Proof.Machine.execDist7 s
  | .dist8 => Sys2Proof.Machine.execDist8 s
  | .dist9 => Sys2Proof.Machine.execDist9 s
  | .dist10 => Sys2Proof.Machine.execDist10 s
  | .dist11 => Sys2Proof.Machine.execDist11 s
  | .dist12 => Sys2Proof.Machine.execDist12 s
  | .dist13 => Sys2Proof.Machine.execDist13 s
  | .dist14 => Sys2Proof.Machine.execDist14 s
  | .dist15 => Sys2Proof.Machine.execDist15 s
  | .dist16 => Sys2Proof.Machine.execDist16 s
  | .dist17 => Sys2Proof.Machine.execDist17 s
  | .dist18 => Sys2Proof.Machine.execDist18 s
  | .dist19 => Sys2Proof.Machine.execDist19 s
  | .dist20 => Sys2Proof.Machine.execDist20 s
  | .dist21 => Sys2Proof.Machine.execDist21 s
  | .dist22 => Sys2Proof.Machine.execDist22 s
  | .dist23 => Sys2Proof.Machine.execDist23 s
  | .dist24 => Sys2Proof.Machine.execDist24 s
  | .dist25 => Sys2Proof.Machine.execDist25 s
  | .dist26 => Sys2Proof.Machine.execDist26 s
  | .dist27 => Sys2Proof.Machine.execDist27 s
  | .dist28 => Sys2Proof.Machine.execDist28 s
  | .dist29 => Sys2Proof.Machine.execDist29 s
  | .distRsvd30 => Sys2Proof.Machine.execDistRsvd30 s
  | .distRsvd31 => Sys2Proof.Machine.execDistRsvd31 s
  | .trailer adlerHi adlerLo => Sys2Proof.Machine.execTrailer adlerHi adlerLo s
  | .decompress ignored => Sys2Proof.Machine.execDecompress ignored s
  | .fixlit7 code => Sys2Proof.Machine.execFixlit7 code s
  | .fixlit8a code => Sys2Proof.Machine.execFixlit8a code s
  | .fixlit8b code => Sys2Proof.Machine.execFixlit8b code s
  | .fixlit9 code => Sys2Proof.Machine.execFixlit9 code s
  | .fixdist5 code => Sys2Proof.Machine.execFixdist5 code s
  | .brInit off => Sys2Proof.Machine.execBrInit off s
  | .brRead n => Sys2Proof.Machine.execBrRead n s
  | .brGetValue n => Sys2Proof.Machine.execBrGetValue n s
  | .brFlush => Sys2Proof.Machine.execBrFlush s
  | .brReadByte => Sys2Proof.Machine.execBrReadByte s
  | .brRemainingBytes => Sys2Proof.Machine.execBrRemainingBytes s
  | .htBuild tree codeLengths => Sys2Proof.Machine.execHtBuild tree codeLengths s
  | .htDecodeSymbol tree => Sys2Proof.Machine.execHtDecodeSymbol tree s
  | .dyntrees => Sys2Proof.Machine.execDyntrees s
  | .matchCopy => Sys2Proof.Machine.execMatchCopy s
  | .lzCopy length distance => Sys2Proof.Machine.execLzCopy length distance s
  | .adlerInit initial => Sys2Proof.Machine.execAdlerInit initial s
  | .adlerUpdate byte => Sys2Proof.Machine.execAdlerUpdate byte s
  | .adlerFinal => Sys2Proof.Machine.execAdlerFinal s

end Sys2Proof.Machine
end

