-- ==== Sys2Proof/Machine/HostPort.lean ====
section
/-! DEFINITION. The host's moves: the host registers (10_state.md R40), the loads and reads of IN and OUT
(20_memory.md), hardware reset (70_reset_and_hazards.md R280), and bare unit operations (log 11). -/

namespace Sys2Proof.Machine

/-- What a read of host register `n` returns (10_state.md R40). -/
def State.readRegister (s : State) : Nat → Option Word
  | 0 => some 0
  | 1 => some s.statusWord
  | 2 => some s.errorCodeWord
  | 3 => some s.inSize
  | 4 => some s.outCapacity
  | 5 => some s.outCountWord
  | _ => none

/-- A host access that R292 forbids while BUSY (70_reset_and_hazards.md R292, U4). -/
def unlessBusy (s s1 : State) : Host.Outcome State Fault Refusal :=
  if s.busy then .refused .hostAccessWhileBusy else .next s1

/-- A host write of a register (10_state.md R40). A write of CTRL with START = 1 is DECOMPRESS
(70_reset_and_hazards.md R284) and with START = 0 does nothing; writes of the read-only registers are ignored (U10). -/
def hostWriteReg (n : Nat) (v : Word) (s : State) : Host.Outcome State Fault Refusal :=
  match n with
  | 0 =>
    match decode .ctrl32 v.toNat with
    | .ok i => exec i s
    | .error _ => .next s
  | 1 | 2 | 5 => .next s
  | 3 => unlessBusy s { s with inSize := v }
  | 4 => unlessBusy s { s with outCapacity := v }
  | _ => .fault (.noSuchRegister n)

/-- A host access to a byte at offset `a` of IN or OUT (00_scope.md R8: `2^AW - 1` bytes). -/
def withOffset (a : Nat) (x : Host.Outcome State Fault Refusal) : Host.Outcome State Fault Refusal :=
  if a < Config.inMax then x else .fault (.noSuchOffset a)

/-- What is added to the next state of an outcome. -/
def mapNext (x : Host.Outcome State Fault Refusal) (f : State → State) : Host.Outcome State Fault Refusal :=
  match x with
  | .next s => .next (f s)
  | .fault r => .fault r
  | .refused r => .refused r

/-- What a bare operation leaves of the sequencer and the host registers: everything. No call runs that a `raise` could
abort (00_scope.md R11), IDLE, DONE and ERROR are left only by START or reset (44_decompress_top.md R222;
60_exceptions.md R262), and OUT is not touched; the kind raised goes to `unitError` (DESIGN CHOICE, log 11). -/
def outsideCall (before after : State) : State :=
  if after.seqState = .error then
    { after with
      seqState := before.seqState, errorCode := before.errorCode, outCount := before.outCount
      outMem := before.outMem, unitError := after.errorCode }
  else { after with seqState := before.seqState, unitError := 0 }

/-- A unit operation with the sequencer standing aside, so that its ERROR tells that the operation has raised. -/
def bareUnit (i : Instr) (s : State) : Host.Outcome State Fault Refusal :=
  mapNext (exec i { s with seqState := .idle }) (outsideCall s)

/-- A bare unit operation (70_reset_and_hazards.md R298, R294): only while no call runs (log 11). What is refused
otherwise is no operation of a unit: an element of the stream, which the sequencer alone executes (10_state.md R21), or
a code that is no word of the fixed-code row (30_encoding.md R118). -/
def issueUnit (i : Instr) (s : State) : Host.Outcome State Fault Refusal :=
  if s.busy then .refused .unitWhileBusy
  else if i.issuable then bareUnit i s
  else .refused .notAUnitOperation

/-- One move of the host. -/
def hostMove (m : HostMove) (s : State) : Host.Outcome State Fault Refusal :=
  match m with
  | .writeReg n v => hostWriteReg n v s
  | .readReg n =>
    match s.readRegister n with
    | some v => .next { s with hostData := v }
    | none => .fault (.noSuchRegister n)
  | .writeIn a b => withOffset a (unlessBusy s { s with inMem := s.inMem.write a b })
  | .readIn a => withOffset a (.next { s with hostData := (storedIn a s).setWidth 32 })
  | .writeOut a b => withOffset a (unlessBusy s { s with outMem := s.outMem.write a b })
  | .readOut a => withOffset a (unlessBusy s { s with hostData := (memReadOut a s).setWidth 32 })
  | .reset => .next (hardwareReset s)
  | .issue i => issueUnit i s

end Sys2Proof.Machine
end

