-- ==== Sys2Proof/Machine/Engine.lean ====
section
/-! DEFINITION. One row of the engine, and one step of host and engine together. -/

namespace Sys2Proof.Machine

/-- The engine executes the row that comes next (44_decompress_top.md R220); in IDLE, DONE and ERROR it does not run
(60_exceptions.md R268). An element whose bits are not all there raises in the state at hand: the working registers
its earlier statements would have written, which nothing can read after an error (60_exceptions.md R252, U3), keep
their values (DESIGN CHOICE, safe, log 34). -/
def engineStep (s : State) : Host.Outcome State Fault Refusal :=
  match nextInstr s with
  | .instr i => mapNext (exec i s) (afterRow s)
  | .raise e => .next (takeError e s)
  | .refuse r => .refused r
  | .none => .next s

/-- The host's next move, if one is due, or one row of the engine (log 8). -/
def nextStep (s : State) : Host.Outcome State Fault Refusal :=
  match s.inputs with
  | [] => engineStep s
  | .tick :: rest => engineStep { s with inputs := rest }
  | .host m :: rest => hostMove m { s with inputs := rest }

/-- An opcode-table word laid where the next step fetches it (log 20, log 21). -/
def fetchTableWord (s : State) (nbits w : Nat) : State :=
  match tableFormat nbits w with
  | some f => placeWord f w s
  | none => s

end Sys2Proof.Machine
end

