-- ==== Sys2Proof/Machine/Step.lean ====
section
/-! DEFINITION. The step of the machine, and the host's word probe. -/

namespace Sys2Proof.Machine

/-- One step: the host's next move or one row of the engine. -/
def step (s : State) : Host.Outcome State Fault Refusal := nextStep s

/-- `s` with the instruction whose opcode-table word is `w` where the next step fetches. -/
def State.withFetchWord (s : State) (nbits w : Nat) : State := fetchTableWord s nbits w

end Sys2Proof.Machine
end

