-- ==== Sys2Proof/Safety.lean ====
section
/-! DEFINITION. The terms claims are stated in: the bits of the input, the invariants of the bit reader
(10_state.md R23), what it is to consume bits and nothing else, the checksum as a function (45_adler32_checksum.md
R235), the invariant of the block, and what a safe run is. -/

namespace Sys2Proof.Machine

/-! ## The input as bits -/

/-- Input bit `q`: bit `q mod 8` of `IN[q / 8]` (40_bit_stream_reader.md R135). -/
def inBit (s : State) (q : Nat) : Nat := (memReadIn (q / 8) s).toNat / 2 ^ (q % 8) % 2

/-- The `n`-bit raw field that starts at input bit `p`: the first bit is the least significant (20_memory.md R73). -/
def fieldAt (s : State) (p : Nat) : Nat → Nat
  | 0 => 0
  | n + 1 => inBit s p + 2 * fieldAt s (p + 1) n

/-- The `n`-bit code that starts at input bit `p`: the first bit is the most significant (20_memory.md R74). -/
def codeAt (s : State) (p : Nat) : Nat → Nat
  | 0 => 0
  | n + 1 => 2 * codeAt s p n + inBit s (p + n)

/-- The next byte boundary at or after a bit position (30_encoding.md R128, PAD). -/
def alignUp (p : Nat) : Nat := (p + 7) / 8 * 8

/-! ## The bit reader -/

/-- The invariants of the bit reader that are about its own registers (10_state.md R23), (a) to (c); `loaded` says that
POS is not negative. -/
structure ReaderBounds (s : State) : Prop where
  cursor : s.byteStreamOffset.toNat ≤ s.byteStreamSize.toNat
  size : s.bitBufferSize.toNat ≤ 32
  loaded : s.bitBufferSize.toNat ≤ 8 * s.byteStreamOffset.toNat
  clear : s.bitBuffer.toNat < 2 ^ s.bitBufferSize.toNat

/-- The invariants of the bit reader (10_state.md R23), (a) to (d). Outside a call the host may break (d) by rewriting IN
or IN_SIZE under the buffered bits (log 38). -/
structure ReaderInv (s : State) : Prop extends ReaderBounds s where
  content : s.bitBuffer.toNat = fieldAt s s.pos s.bitBufferSize.toNat

/-- The bit reader between the operations the sequencer issues: R23, and at most 7 bits buffered
(40_bit_stream_reader.md R137). -/
structure ReaderOk (s : State) : Prop where
  inv : ReaderInv s
  few : s.bitBufferSize.toNat ≤ 7

/-- `t` is `s` but for the buffer and the cursor of the bit reader. -/
def SameButReader (s t : State) : Prop :=
  t = { s with
    bitBuffer := t.bitBuffer, bitBufferSize := t.bitBufferSize, byteStreamOffset := t.byteStreamOffset }

/-- `t` is `s` after `n` bits of the input have been consumed, and nothing else has happened. -/
structure Consumed (n : Nat) (s t : State) : Prop where
  same : SameButReader s t
  pos : t.pos = s.pos + n
  ok : ReaderOk t

/-- As `Consumed`, for a user of the bare bit reader, whose buffer may hold up to 32 bits (10_state.md R23). -/
structure Taken (n : Nat) (s t : State) : Prop where
  same : SameButReader s t
  pos : t.pos = s.pos + n
  inv : ReaderInv t

/-- `n` more bits of the input are there (40_bit_stream_reader.md R135). -/
abbrev Available (n : Nat) (s : State) : Prop := s.pos + n ≤ 8 * s.byteStreamSize.toNat

/-- The refill for `n` bits stays within 32 bits (40_bit_stream_reader.md R140). -/
abbrev RefillFits (n : Nat) (s : State) : Prop :=
  s.bitBufferSize.toNat + 8 * ((n - s.bitBufferSize.toNat + 7) / 8) ≤ 32

/-- `s` after the PAD and `k` whole bytes have been consumed: the buffer is empty (40_bit_stream_reader.md R137). -/
def atByte (b : Nat) (s : State) : State :=
  { s with bitBuffer := 0, bitBufferSize := 0, byteStreamOffset := BitVec.ofNat 32 b }

/-- The raw field an element reads after its word's symbol, or as its word, in one BR.GET_VALUE
(30_encoding.md R119, R128); `none` for the other instructions. -/
def rawBits (i : Instr) : Option Nat :=
  match i with
  | .bhdrStored _ | .bhdrFixed _ | .bhdrDynamic _ | .bhdrReserved _ => some 3
  | .dynhdr _ _ _ => some 14
  | .prelen _ => some 3
  | .clRep => some 2
  | .clZrep3 => some 3
  | .clZrep11 => some 7
  | i =>
    match i.lenIndex, i.distIndex with
    | some k, _ => some (lenExtra k)
    | none, some j => some (distExtra j)
    | none, none => none

/-! ## Trees -/

/-- The pair (length `L`, code `c`) is valid in a store and stands for `sym` (10_state.md R26). -/
abbrev TreeStore.HasCode (t : TreeStore) (L c : Nat) (sym : BitVec 9) : Prop :=
  t.firstCodeAt L ≤ c ∧ c < t.firstCodeAt L + t.countAt L ∧ (t.symsAt L)[c - t.firstCodeAt L]? = some sym

/-- The pair (length `L`, code `c`) is not valid in a store (10_state.md R26). -/
abbrev TreeStore.NoCode (t : TreeStore) (L c : Nat) : Prop :=
  ¬ (t.firstCodeAt L ≤ c ∧ c < t.firstCodeAt L + t.countAt L)

/-- The symbols whose code length is `L`, in increasing order (41_huffman_tree_decoder.md R152). -/
def symbolsOfLength (lengths : List (BitVec 8)) (L : Nat) : List Nat :=
  (List.range lengths.length).filter fun i => decide ((lengths[i]?).map BitVec.toNat = some L)

/-- `T` holds the canonical code of the code lengths (41_huffman_tree_decoder.md R152): the counts, the first codes by the
recurrence, and the symbols of each length in increasing order. -/
structure CanonicalTree (lengths : List (BitVec 8)) (T : TreeStore) : Prop where
  number : T.numberOfSymbols.toNat = lengths.length
  built : T.built = true
  countZero : T.countAt 0 = 0
  symbols : ∀ L, 1 ≤ L → L ≤ 15 → (T.symsAt L).map BitVec.toNat = symbolsOfLength lengths L
  count : ∀ L, 1 ≤ L → L ≤ 15 → T.countAt L = (symbolsOfLength lengths L).length
  firstZero : T.firstCodeAt 0 = 0
  first : ∀ L, L < 15 → T.firstCodeAt (L + 1) = (T.firstCodeAt L + T.countAt L) * 2

/-- The share of the code space that code lengths take, in units of `2 ^ (-15)` (41_huffman_tree_decoder.md R154). -/
def codeSpace (lengths : List (BitVec 8)) : Nat :=
  (lengths.map fun l => if l = 0 then 0 else 2 ^ (15 - l.toNat)).sum

/-! ## Output and checksum -/

/-- `OUT[0 .. n-1]`. -/
def outBytes (n : Nat) (s : State) : List Byte := (List.range n).map fun a => memReadOut a s

/-- The running sums of 45_adler32_checksum.md R235 over a byte sequence: `(lo, hi)`. -/
def adlerSums : List Byte → Nat × Nat → Nat × Nat
  | [], p => p
  | d :: rest, (lo, hi) =>
    adlerSums rest ((lo + d.toNat) % 65521, (hi + (lo + d.toNat) % 65521) % 65521)

/-- ADLER32(bytes, initial) (45_adler32_checksum.md R235). -/
def adler32 (bytes : List Byte) (initial : Word) : Nat :=
  let p := adlerSums bytes (initial.toNat % 65536, initial.toNat / 65536)
  p.2 * 65536 + p.1

/-- The sums without reduction, on natural numbers (45_adler32_checksum.md R240). -/
def adlerRaw : List Byte → Nat × Nat → Nat × Nat
  | [], p => p
  | d :: rest, (lo, hi) => adlerRaw rest (lo + d.toNat, hi + (lo + d.toNat))

/-- Every byte of OUT outside the `n` bytes from offset `o` on reads in `t` as in `s`. -/
def OutKept (o n : Nat) (s t : State) : Prop :=
  ∀ a, a < o ∨ o + n ≤ a → memReadOut a t = memReadOut a s

/-- `t` is `s` after a copy of `length` bytes from `distance` back: the last `distance` bytes repeated cyclically
(43_lz77_expander.md R212). -/
structure Copied (length distance : Nat) (s t : State) : Prop where
  same : t = { s with outMem := t.outMem, outOffset := BitVec.ofNat 32 (s.outOffset.toNat + length) }
  bytes : ∀ i, i < length →
    memReadOut (s.outOffset.toNat + i) t = memReadOut (s.outOffset.toNat - distance + i % distance) s
  kept : OutKept s.outOffset.toNat length s t

/-- `t` is `s` after a copy of `length` bytes of which nothing is known (log 32). -/
structure CopiedFree (length : Nat) (s t : State) : Prop where
  same : t = { s with
    outMem := t.outMem, outOffset := BitVec.ofNat 32 (s.outOffset.toNat + length), freeCount := s.freeCount + length }
  kept : OutKept s.outOffset.toNat length s t

/-- Two states that differ at most in the bytes of OUT that the call has not written (20_memory.md R66). -/
def SameButPriorOut (s t : State) : Prop :=
  t = { s with outMem := t.outMem } ∧ ∀ a, a < s.outOffset.toNat → memReadOut a t = memReadOut a s

/-- What a repeat of `count` lengths `v` does in `r`, once its extra bits are consumed
(42_deflate_framing.md R185, R187, R188). -/
def Repeated (count : Nat) (v : BitVec 4) (r : State) (x : Host.Outcome State Fault Refusal) : Prop :=
  (r.totalLengths < r.clIndex.toNat + count → x = .next (takeError .valueOutOfBounds r)) ∧
  (r.clIndex.toNat + count ≤ r.totalLengths →
    ∃ t, x = .next t ∧
      t = { r with
        codeLengths := t.codeLengths
        clIndex := BitVec.ofNat 9 (r.clIndex.toNat + count)
        place := if r.clIndex.toNat + count < r.totalLengths then .clCode else .dyntrees } ∧
      ∀ (j : Nat) (h : j < 316), t.codeLengths[j]
        = if r.clIndex.toNat ≤ j ∧ j < r.clIndex.toNat + count then v else r.codeLengths[j])

/-! ## The invariant of the block -/

/-- A call runs and its header has been accepted. -/
def State.inStream (s : State) : Bool :=
  match s.seqState with
  | .expectBlockHeader | .storedBlock | .fixedHuffmanBlock | .dynamicHuffmanBlock | .trailer => true
  | .idle | .header | .done | .error => false

/-- Every symbol of a store is below `n` (41_huffman_tree_decoder.md R158). -/
def TreeStore.SymbolsBelow (n : Nat) (t : TreeStore) : Prop :=
  ∀ L sym, sym ∈ t.symsAt L → sym.toNat < n

/-- The counts of a dynamic block are legal (30_encoding.md R98). -/
structure CountsLegal (s : State) : Prop where
  lit : 257 ≤ s.numLiteralCodes.toNat ∧ s.numLiteralCodes.toNat ≤ 286
  dist : 1 ≤ s.numDistanceCodes.toNat ∧ s.numDistanceCodes.toNat ≤ 30
  pre : 4 ≤ s.numCodeLengthCodes.toNat ∧ s.numCodeLengthCodes.toNat ≤ 19

/-- The two dynamic trees are built (41_huffman_tree_decoder.md R164) and hold symbols of their alphabets. -/
structure DynTreesReady (s : State) : Prop where
  litBuilt : s.dynLitTree.built = true
  distBuilt : s.dynDistTree.built = true
  lit : s.dynLitTree.SymbolsBelow 286
  dist : s.dynDistTree.SymbolsBelow 30

/-- The trees in use in the symbol loop are ready: in a fixed block the constants are. -/
def SymbolTreesReady (s : State) : Prop := s.seqState = .dynamicHuffmanBlock → DynTreesReady s

/-- What holds at each place of a Huffman block. -/
def PlaceOk (s : State) : Prop :=
  match s.place with
  | .dynhdr => s.seqState = .dynamicHuffmanBlock
  | .prelen i => s.seqState = .dynamicHuffmanBlock ∧ CountsLegal s ∧ i < s.numCodeLengthCodes.toNat
  | .clCode =>
    s.seqState = .dynamicHuffmanBlock ∧ CountsLegal s ∧ s.clIndex.toNat < s.totalLengths ∧
      s.preTree.built = true ∧ s.preTree.SymbolsBelow 19
  | .clSym =>
    s.seqState = .dynamicHuffmanBlock ∧ CountsLegal s ∧ s.clIndex.toNat < s.totalLengths ∧
      s.preTree.built = true ∧ s.preTree.SymbolsBelow 19 ∧ s.preSymbol.toNat < 19
  | .dyntrees => s.seqState = .dynamicHuffmanBlock ∧ CountsLegal s ∧ s.clIndex.toNat = s.totalLengths
  | .litCode => SymbolTreesReady s
  | .litSym => SymbolTreesReady s ∧ s.symbol.toNat < 288
  | .distCode => SymbolTreesReady s ∧ 3 ≤ s.length.toNat ∧ s.length.toNat ≤ 258
  | .distSym => SymbolTreesReady s ∧ 3 ≤ s.length.toNat ∧ s.length.toNat ≤ 258 ∧ s.distSymbol.toNat < 30
  | .matchCopy =>
    SymbolTreesReady s ∧ 3 ≤ s.length.toNat ∧ s.length.toNat ≤ 258 ∧
      1 ≤ s.distance.toNat ∧ s.distance.toNat ≤ 32768

/-- The invariant of the block. Outside a stream only the memories and the bounds of the bit reader are constrained: START
and BR.INIT set up the rest (70_reset_and_hazards.md R284, R282). -/
structure Inv (s : State) : Prop where
  /-- The memories keep their canonical form. -/
  inForm : s.inMem.wf = true
  outForm : s.outMem.wf = true
  /-- 10_state.md R23 (a) to (c), in and outside a call. -/
  bounds : ReaderBounds s
  /-- In a stream, 10_state.md R23 and 40_bit_stream_reader.md R137. -/
  reader : s.inStream = true → ReaderOk s ∧ s.byteStreamSize = s.inSize
  /-- OUT is never written past its capacity (20_memory.md R68). -/
  room : s.inStream = true → s.outOffset.toNat ≤ s.outCapacity.toNat
  /-- BLOCK_TYPE agrees with the sequencer state (44_decompress_top.md R222). -/
  stored : s.seqState = .storedBlock → s.blockType = 0
  fixed : s.seqState = .fixedHuffmanBlock → s.blockType = 1
  dynamic : s.seqState = .dynamicHuffmanBlock → s.blockType = 2
  /-- Each place of a Huffman block has what it needs (41_huffman_tree_decoder.md R164). -/
  place : s.inHuffmanBlock = true → PlaceOk s
  /-- `ERROR_CODE` and `OUT_COUNT` are 0 while a call runs (70_reset_and_hazards.md R284). -/
  clean : s.busy = true → s.errorCode = 0 ∧ s.outCount = 0

/-! ## Safe runs -/

/-- The rows of a list executed in order. -/
def execAll : List Instr → State → Host.Outcome State Fault Refusal
  | [], s => .next s
  | i :: rest, s =>
    match exec i s with
    | .next t => execAll rest t
    | .fault r => .fault r
    | .refused r => .refused r


/-- The model does not stop in `k` steps from `s`. -/
def RunsOn (k : Nat) (s : State) : Prop := ∃ t, Host.Core.run Sys2Proof.core k s = .next t

/-- The call that runs in `s` has ended in `t`, after `k` steps. -/
def CallEndsIn (k : Nat) (s t : State) : Prop :=
  Host.Core.run Sys2Proof.core k s = .next t ∧ t.busy = false

end Sys2Proof.Machine
end

