-- ==== Sys2Proof/Certificates/Slice0/Obligations.lean ====
section
/-! DEFINITION. The statements for the provers. Each docstring names the rules of spec/ the statement rests on;
where a clause rests on a choice of the model's own, the docstring names the log entry. -/

open Sys2Proof Sys2Proof.Machine

/-! ## Encoding -/

/-- Decoding the word of a well-formed instruction gives the instruction back, every operand with it; the only
instructions without a word are unit operations (30_encoding.md R92 to R118, R124). -/
def Obligations.DecodeOfEncode : Prop :=
  ∀ i : Instr, i.wf = true →
    (∀ f w, encode i = some (f, w) → decode f w = .ok i) ∧ (encode i = none → i.isUnit = true)

/-- A word that decodes is the word its instruction encodes to, in the same format, and the instruction is well
formed: no two words of a format mean the same instruction (30_encoding.md R124). -/
def Obligations.EncodeOfDecode : Prop :=
  ∀ (f : Format) (w : Nat) (i : Instr), decode f w = .ok i → encode i = some (f, w) ∧ i.wf = true

/-- A word that applies to a row of the opcode table, by mask and match and the table's "last" mark, decodes to that
row's instruction, and no word applies to two rows of one format (30_encoding.md R124). -/
def Obligations.OpcodeRowsDecode : Prop :=
  (∀ r ∈ opcodeRows, ∀ w, w < 2 ^ r.format.width → r.applies w = true →
    ∃ i, decode r.format w = .ok i ∧ i.mnemonic = r.mnemonic) ∧
  (∀ r ∈ opcodeRows, ∀ q ∈ opcodeRows, ∀ w, w < 2 ^ r.format.width → r.format = q.format →
    r.applies w = true → q.applies w = true → r = q)

/-- Words written out from the layouts of 30_encoding.md R92, R94, R96, R98, R102, R108, R110, R116, R118. -/
def Obligations.SampleWordsDecode : Prop :=
  decode .zhdr16 0x9c78 = .ok (.zhdr 7 0b11100 0b10) ∧
  decode .zhdr16 0xbc78 = .ok (.zhdrFdict 7 0b11100 0b10) ∧
  decode .zhdr16 0x1c88 = .ok (.zhdrBadwindow 0 0b11100 0 0) ∧
  decode .zhdr16 0x9c79 = .ok (.zhdrBadcm 9 7 0b11100 0 0b10) ∧
  decode .bhdr3 0b101 = .ok (.bhdrDynamic true) ∧
  decode .bhdr3 0b110 = .ok (.bhdrReserved false) ∧
  decode .stored32 0xfffc0003 = .ok (.stored 3 0xfffc) ∧
  decode .dynhdr14 0x3864 = .ok (.dynhdr 4 3 14) ∧
  decode .prelen3 0b110 = .ok (.prelen 6) ∧
  decode .clsym5 15 = .ok (.clLen 15) ∧
  decode .clsym5 17 = .ok .clZrep3 ∧
  decode .litlen9 0x0ff = .ok (.lit 0xff) ∧
  decode .litlen9 0x100 = .ok .eob ∧
  decode .litlen9 285 = .ok .len28 ∧
  decode .litlen9 287 = .ok .litlenRsvd287 ∧
  decode .dist5 29 = .ok .dist29 ∧
  decode .trailer32 0x055b0187 = .ok (.trailer 0x055b 0x0187) ∧
  decode .fixlit8 0b11000111 = .ok (.fixlit8b 0b11000111) ∧
  decode .fixdist5 0b11110 = .error (.noElement .fixdist5 0b11110)

/-! ## The step -/

/-- A step in which the host makes no move runs the row that comes next in the state at hand, and then does what
`afterRow` says; a missing element raises its error; an engine that is not running does nothing
(44_decompress_top.md R220; 60_exceptions.md R268). That one row is one step is the model's choice (log 6, log 8), and so is
the state in which a missing element raises (log 34). -/
def Obligations.StepRunsDecodedInstruction : Prop :=
  ∀ s s0 : State,
    (s.inputs = [] ∧ s0 = s) ∨ (∃ rest, s.inputs = .tick :: rest ∧ s0 = { s with inputs := rest }) →
      (∀ i, nextInstr s0 = .instr i → step s = mapNext (exec i s0) (afterRow s0)) ∧
      (∀ e, nextInstr s0 = .raise e → step s = .next (takeError e s0)) ∧
      (∀ r, nextInstr s0 = .refuse r → step s = .refused r) ∧
      (nextInstr s0 = .none → step s = .next s0)

/-- After a row outside a Huffman block the step adds nothing. After a bits-to-symbol row the symbol goes to the
register the loop reads it from, and the element it selects comes next (30_encoding.md R106;
42_deflate_framing.md R183; 43_lz77_expander.md R200, R208). The registers `unitResult`, `preSymbol` and `place` are the
model's own (log 6, log 7). -/
def Obligations.SymbolGoesToItsRegister : Prop :=
  ∀ s t : State,
    (s.inHuffmanBlock = false → afterRow s t = t) ∧
    (t.seqState = .error → afterRow s t = t) ∧
    (s.inHuffmanBlock = true → t.seqState ≠ .error →
      (s.place = .clCode →
        afterRow s t = { t with preSymbol := BitVec.ofNat 9 t.unitResult, place := .clSym }) ∧
      (s.place = .litCode →
        afterRow s t = { t with symbol := BitVec.ofNat 9 t.unitResult, place := .litSym }) ∧
      (s.place = .distCode → t.unitResult < 32 →
        afterRow s t = { t with distSymbol := BitVec.ofNat 5 t.unitResult, place := .distSym }) ∧
      (s.place = .distCode → 32 ≤ t.unitResult → afterRow s t = takeError .invalidSymbol t) ∧
      (s.place ≠ .clCode → s.place ≠ .litCode → s.place ≠ .distCode → afterRow s t = t))

/-- What the sequencer takes as its next row: a raw field is the bits that stand next, a symbol's element is the
symbol register's, a code is decoded with the tree in use, and an input that ends too early is OutOfData
(20_memory.md R73, R75; 30_encoding.md R90, R106; 40_bit_stream_reader.md R135; 44_decompress_top.md R224), raised
before any of the element's writes, which is the model's choice (log 34). -/
def Obligations.FetchReadsTheStream : Prop :=
  ∀ s : State, ReaderOk s →
    (s.seqState = .expectBlockHeader →
      nextInstr s = if s.pos + 3 ≤ 8 * s.byteStreamSize.toNat then fetched .bhdr3 (fieldAt s s.pos 3)
        else .raise .outOfData) ∧
    (s.seqState = .storedBlock →
      nextInstr s = if alignUp s.pos + 32 ≤ 8 * s.byteStreamSize.toNat
        then fetched .stored32 (fieldAt s (alignUp s.pos) 32) else .raise .outOfData) ∧
    (s.seqState = .trailer →
      nextInstr s = if alignUp s.pos + 32 ≤ 8 * s.byteStreamSize.toNat
        then fetched .trailer32
          (16777216 * (memReadIn (alignUp s.pos / 8) s).toNat + 65536 * (memReadIn (alignUp s.pos / 8 + 1) s).toNat
            + 256 * (memReadIn (alignUp s.pos / 8 + 2) s).toNat + (memReadIn (alignUp s.pos / 8 + 3) s).toNat)
        else .raise .outOfData) ∧
    (s.inHuffmanBlock = true →
      (s.place = .dynhdr →
        nextInstr s = if s.pos + 14 ≤ 8 * s.byteStreamSize.toNat then fetched .dynhdr14 (fieldAt s s.pos 14)
          else .raise .outOfData) ∧
      (∀ i, s.place = .prelen i →
        nextInstr s = if s.pos + 3 ≤ 8 * s.byteStreamSize.toNat then fetched .prelen3 (fieldAt s s.pos 3)
          else .raise .outOfData) ∧
      (s.place = .clCode → nextInstr s = .instr (codeInstr .pre s)) ∧
      (s.place = .clSym → nextInstr s = fetched .clsym5 s.preSymbol.toNat) ∧
      (s.place = .dyntrees → nextInstr s = .instr .dyntrees) ∧
      (s.place = .litCode →
        nextInstr s = .instr (codeInstr (if s.blockType = 1 then .fixLit else .dynLit) s)) ∧
      (s.place = .litSym → nextInstr s = fetched .litlen9 s.symbol.toNat) ∧
      (s.place = .distCode →
        nextInstr s = .instr (codeInstr (if s.blockType = 1 then .fixDist else .dynDist) s)) ∧
      (s.place = .distSym → nextInstr s = fetched .dist5 s.distSymbol.toNat) ∧
      (s.place = .matchCopy → nextInstr s = .instr .matchCopy))

/-- The row executed for a code has the effect of HT.DECODE_SYMBOL on the tree, in every state; and where a code of
a fixed tree stands next, the row is the one whose word that code is (30_encoding.md R106, R118;
41_huffman_tree_decoder.md R156). That a fixed-code row is executed as a row is the model's choice (log 12). -/
def Obligations.CodeRowsAgreeWithDecodeSymbol : Prop :=
  ∀ (t : TreeId) (s : State),
    exec (codeInstr t s) s = exec (.htDecodeSymbol t) s ∧
    ∀ m u, t = .fixLit ∨ t = .fixDist → htMatch t s = .ok m u →
      ∃ f, encode (codeInstr t s) = some (f, m.code) ∧ f.width = m.codeLength ∧ (codeInstr t s).wf = true

/-- A step in which the host's move is due makes that move: registers (10_state.md R40), IN and OUT, hardware reset
(70_reset_and_hazards.md R280, U5), a bare unit operation. Accesses that R292 forbids while BUSY are refused (log 9);
register numbers above 5 and offsets past the memories are faults (log 10); bare operations, LZ.COPY and HT.BUILD with
any operands among them (log 40), are the model's (log 11), and one that raises leaves the sequencer, the host registers and OUT
alone (44_decompress_top.md R222). -/
def Obligations.StepMakesHostMove : Prop :=
  ∀ (s s0 : State) (m : HostMove) (rest : List Input),
    s.inputs = .host m :: rest → s0 = { s with inputs := rest } →
      (∀ v, m = .writeReg 0 v → v.toNat % 2 = 1 →
        step s = exec (.decompress (BitVec.ofNat 31 (v.toNat / 2))) s0) ∧
      (∀ v, m = .writeReg 0 v → v.toNat % 2 = 0 → step s = .next s0) ∧
      (∀ n v, m = .writeReg n v → n = 1 ∨ n = 2 ∨ n = 5 → step s = .next s0) ∧
      (∀ v, m = .writeReg 3 v →
        step s = if s.busy then .refused .hostAccessWhileBusy else .next { s0 with inSize := v }) ∧
      (∀ v, m = .writeReg 4 v →
        step s = if s.busy then .refused .hostAccessWhileBusy else .next { s0 with outCapacity := v }) ∧
      (∀ a b, m = .writeIn a b → a < 2 ^ 32 - 1 →
        step s = if s.busy then .refused .hostAccessWhileBusy else .next { s0 with inMem := s.inMem.write a b }) ∧
      (∀ a b, m = .writeOut a b → a < 2 ^ 32 - 1 →
        step s = if s.busy then .refused .hostAccessWhileBusy else .next { s0 with outMem := s.outMem.write a b }) ∧
      (∀ a, m = .readIn a → a < 2 ^ 32 - 1 →
        step s = .next { s0 with hostData := (storedIn a s).setWidth 32 }) ∧
      (∀ a, m = .readOut a → a < 2 ^ 32 - 1 →
        step s = if s.busy then .refused .hostAccessWhileBusy
          else .next { s0 with hostData := (memReadOut a s).setWidth 32 }) ∧
      (m = .reset →
        step s = .next { State.reset with
          inMem := ⟨[], s.inMem.epoch + 1⟩, outMem := ⟨[], s.outMem.epoch + 1⟩, freeCount := s.freeCount
          inputs := rest }) ∧
      (∀ i, m = .issue i → s.busy = true → step s = .refused .unitWhileBusy) ∧
      (∀ i, m = .issue i → s.busy = false → i.issuable = false → step s = .refused .notAUnitOperation) ∧
      (∀ i, m = .issue i → s.busy = false → i.issuable = true →
        step s = mapNext (exec i { s0 with seqState := .idle }) (fun u =>
          if u.seqState = .error
          then { u with
            seqState := s.seqState, errorCode := s.errorCode, outCount := s.outCount, outMem := s.outMem
            unitError := u.errorCode }
          else { u with seqState := s.seqState, unitError := 0 }))

/-! ## Invariants of the whole machine -/

/-- Every step keeps the invariant of the block: the memories' form; the bit reader's invariants (10_state.md R23), (a) to
(c) in every state, which is the model's choice between START and a good header (log 19); in a stream (d) and the 7-bit
bound (40_bit_stream_reader.md R137), and OUT within its capacity (20_memory.md R68); trees built before they are used
(41_huffman_tree_decoder.md R164); the counts legal; ERROR_CODE and OUT_COUNT 0 while a call runs. -/
def Obligations.StepKeepsInv : Prop := ∀ s t : State, Inv s → step s = .next t → Inv t

/-- The invariant holds after reset (10_state.md R48). -/
def Obligations.InvAtReset : Prop := Inv State.reset

/-- The engine never stops: no stream leads it to a fault or a refusal, whatever its bytes
(70_reset_and_hazards.md R304; 40_bit_stream_reader.md R140; 10_state.md R30). -/
def Obligations.EngineNeverStops : Prop :=
  ∀ s : State, Inv s → s.inputs = [] ∨ (∃ rest, s.inputs = .tick :: rest) → ∃ t, step s = .next t

/-- Every decode call ends in DONE or ERROR, in a number of rows that the size of the input bounds
(44_decompress_top.md R234; 43_lz77_expander.md R218). -/
def Obligations.CallEnds : Prop :=
  ∀ s : State, Inv s → s.busy = true → s.inputs = [] →
    ∃ k t, k ≤ 96 * s.inSize.toNat + 24 ∧ CallEndsIn k s t ∧ (t.seqState = .done ∨ t.seqState = .error)

/-- No instruction writes IN, IN_SIZE or OUT_CAPACITY, or the host's own registers (20_memory.md R60, R86;
10_state.md R41). -/
def Obligations.NoInstructionWritesInput : Prop :=
  ∀ (i : Instr) (s t : State), exec i s = .next t →
    t.inMem = s.inMem ∧ t.inSize = s.inSize ∧ t.outCapacity = s.outCapacity ∧
      t.hostData = s.hostData ∧ t.inputs = s.inputs

/-- No instruction reads IN at or past IN_SIZE: other bytes there change nothing that any instruction does
(20_memory.md R61, R62; 93_implementation_defined.md U9). That a bare read whose bound lies past a lowered IN_SIZE gives
free values there is the model's choice (log 35). -/
def Obligations.NoInstructionReadsPastInput : Prop :=
  ∀ (i : Instr) (s : State) (m : Memory), m.epoch = s.inMem.epoch →
    (∀ a, a < s.inSize.toNat → m.lookup a = s.inMem.lookup a) →
      exec i { s with inMem := m } = mapNext (exec i s) (fun t => { t with inMem := m })

/-- The engine writes OUT strictly forward and within its capacity: a step that raises no error keeps every byte
already written and every byte at or past the new OUT_OFFSET (20_memory.md R68). -/
def Obligations.OutputWrittenForward : Prop :=
  ∀ s t : State, Inv s → s.inStream = true → s.inputs = [] → step s = .next t → t.seqState ≠ .error →
    s.outOffset.toNat ≤ t.outOffset.toNat ∧ t.outOffset.toNat ≤ s.outCapacity.toNat ∧
      ∀ a, a < s.outOffset.toNat ∨ t.outOffset.toNat ≤ a → memReadOut a t = memReadOut a s

/-- The transitions of the sequencer when the engine runs, in every state: DONE, ERROR and IDLE are not left, and each
other state goes where the table of 44_decompress_top.md R222 lets it go. -/
def Obligations.SequencerTransitions : Prop :=
  ∀ s t : State, s.inputs = [] → step s = .next t →
    (s.busy = false → t = s) ∧
    (s.seqState = .header → t.seqState = .expectBlockHeader ∨ t.seqState = .error) ∧
    (s.seqState = .expectBlockHeader →
      (t.seqState = .storedBlock ∧ t.blockType = 0) ∨ (t.seqState = .fixedHuffmanBlock ∧ t.blockType = 1) ∨
        (t.seqState = .dynamicHuffmanBlock ∧ t.blockType = 2) ∨ t.seqState = .error) ∧
    (s.seqState = .storedBlock →
      (t.seqState = .expectBlockHeader ∧ s.lastBlockFlag = false) ∨ (t.seqState = .trailer ∧ s.lastBlockFlag = true) ∨
        t.seqState = .error) ∧
    (s.inHuffmanBlock = true →
      t.seqState = s.seqState ∨ (t.seqState = .expectBlockHeader ∧ s.lastBlockFlag = false) ∨
        (t.seqState = .trailer ∧ s.lastBlockFlag = true) ∨ t.seqState = .error) ∧
    (s.seqState = .trailer → t.seqState = .done ∨ t.seqState = .error)

/-- The bytes of OUT that the call has not written never matter: two states that differ only in them step alike, and
after a step that raises no error they still differ only in them (20_memory.md R66). -/
def Obligations.PriorOutputNeverRead : Prop :=
  ∀ s1 s2 t1 : State, Inv s1 → s1.inStream = true → s1.inputs = [] → SameButPriorOut s1 s2 → step s1 = .next t1 →
    ∃ t2, step s2 = .next t2 ∧ t2 = { t1 with outMem := t2.outMem } ∧
      (t1.seqState ≠ .error → SameButPriorOut t1 t2)

/-- The result of a decode call depends only on the bytes of the input, IN_SIZE and OUT_CAPACITY: not on the previous
contents of OUT, on bytes of IN at or past IN_SIZE, on earlier calls, or on reset values (44_decompress_top.md R232;
00_scope.md R15, R16; 70_reset_and_hazards.md R282). -/
def Obligations.CallDependsOnlyOnInput : Prop :=
  ∀ (s1 s2 : State) (x1 x2 : BitVec 31), Inv s1 → Inv s2 → s1.busy = false → s2.busy = false →
    s1.inputs = [] → s2.inputs = [] → s1.inSize = s2.inSize → s1.outCapacity = s2.outCapacity →
    (∀ a, a < s1.inSize.toNat → memReadIn a s1 = memReadIn a s2) →
      ∃ k u1 u2 t1 t2,
        exec (.decompress x1) s1 = .next u1 ∧ CallEndsIn k u1 t1 ∧
        exec (.decompress x2) s2 = .next u2 ∧ CallEndsIn k u2 t2 ∧
        t1.statusWord = t2.statusWord ∧ t1.errorCodeWord = t2.errorCodeWord ∧ t1.outCountWord = t2.outCountWord ∧
        ∀ a, a < t1.outCountWord.toNat → memReadOut a t1 = memReadOut a t2

/-- After reset: the registers 10_state.md R48 names. -/
def Obligations.ResetValues : Prop :=
  State.reset.seqState = .idle ∧
  (∀ n, n ≤ 5 → State.reset.readRegister n = some 0) ∧
  State.reset.errorCode = 0 ∧ State.reset.outCount = 0 ∧
  State.reset.bitBuffer = 0 ∧ State.reset.bitBufferSize = 0 ∧
  State.reset.byteStreamOffset = 0 ∧ State.reset.byteStreamSize = 0 ∧
  State.reset.lastBlockFlag = false ∧ State.reset.blockType = 0 ∧ State.reset.outOffset = 0 ∧
  State.reset.adlerLo = 0 ∧ State.reset.adlerHi = 0 ∧ State.reset.adlerChunk = 0 ∧
  State.reset.preTree.built = false ∧ State.reset.dynLitTree.built = false ∧ State.reset.dynDistTree.built = false ∧
  State.reset.tree .fixLit = fixLitTree ∧ State.reset.tree .fixDist = fixDistTree

/-! ## The bit reader -/

/-- BR.INIT binds the reader to IN (40_bit_stream_reader.md R130). -/
def Obligations.BrInitBindsReader : Prop :=
  ∀ (off : Word) (s : State), off.toNat ≤ s.inSize.toNat →
    ∃ t, exec (.brInit off) s = .next t ∧
      t = { s with byteStreamSize := s.inSize, byteStreamOffset := off, bitBuffer := 0, bitBufferSize := 0 } ∧
      t.pos = 8 * off.toNat ∧ ReaderOk t

/-- THE MODEL'S CHOICE (log 14): BR.INIT with an operand past IN_SIZE does what 40_bit_stream_reader.md R130 says but
for BYTE_STREAM_OFFSET, which is some offset up to IN_SIZE: the reader's invariants hold (10_state.md R23). -/
def Obligations.BrInitPastEndKeepsReader : Prop :=
  ∀ (off : Word) (s : State), s.inSize.toNat < off.toNat →
    ∃ t, exec (.brInit off) s = .next t ∧
      t = { s with
        byteStreamSize := s.inSize, byteStreamOffset := t.byteStreamOffset, bitBuffer := 0, bitBufferSize := 0
        freeCount := s.freeCount + 1 } ∧
      t.byteStreamOffset.toNat ≤ s.inSize.toNat ∧ ReaderOk t

/-- BR.READ loads whole bytes on top of the buffer and leaves POS alone; it raises before it changes anything, and a
load that would take the buffer above 32 bits is refused (40_bit_stream_reader.md R132). -/
def Obligations.BrReadLoadsWholeBytes : Prop :=
  ∀ (n k : Nat) (s : State), ReaderInv s → k = (n + 7) / 8 →
    (32 < n → exec (.brRead n) s = .next (takeError .valueOutOfBounds s)) ∧
    (n ≤ 32 → s.byteStreamSize.toNat - s.byteStreamOffset.toNat < k →
      exec (.brRead n) s = .next (takeError .outOfData s)) ∧
    (n ≤ 32 → k ≤ s.byteStreamSize.toNat - s.byteStreamOffset.toNat → s.bitBufferSize.toNat + 8 * k ≤ 32 →
      ∃ t, exec (.brRead n) s = .next t ∧ SameButReader s t ∧
        t.bitBufferSize.toNat = s.bitBufferSize.toNat + 8 * k ∧
        t.byteStreamOffset.toNat = s.byteStreamOffset.toNat + k ∧
        t.bitBuffer.toNat = s.bitBuffer.toNat
          + 2 ^ s.bitBufferSize.toNat * fieldAt s (8 * s.byteStreamOffset.toNat) (8 * k) ∧
        t.pos = s.pos ∧ ReaderInv t) ∧
    (n ≤ 32 → k ≤ s.byteStreamSize.toNat - s.byteStreamOffset.toNat → 32 < s.bitBufferSize.toNat + 8 * k →
      exec (.brRead n) s = .refused .refillBeyond32)

/-- BR.GET_VALUE(n) returns the `n` bits that stand next, the first the least significant, moves POS by `n`, and
keeps the reader's invariants; it loads no more bytes than it needs; it raises exactly when the bits are not there, and
a refill that would take the buffer above 32 bits is refused (40_bit_stream_reader.md R134, R135; 20_memory.md R73). Where the value goes, `unitResult`, is the model's (log 7). -/
def Obligations.BrGetValueReturnsNextBits : Prop :=
  ∀ (n : Nat) (s : State), ReaderInv s →
    (32 < n → exec (.brGetValue n) s = .next (takeError .valueOutOfBounds s)) ∧
    (n = 0 → exec (.brGetValue n) s = .next { s with unitResult := 0 }) ∧
    (n ≤ 32 → ¬ Available n s → exec (.brGetValue n) s = .next (takeError .outOfData s)) ∧
    (n ≤ 32 → Available n s → RefillFits n s →
      ∃ r, exec (.brGetValue n) s = .next { r with unitResult := fieldAt s s.pos n } ∧
        SameButReader s r ∧ r.pos = s.pos + n ∧ ReaderInv r ∧
        r.bitBufferSize.toNat + n = s.bitBufferSize.toNat + 8 * ((n - s.bitBufferSize.toNat + 7) / 8)) ∧
    (n ≤ 32 → Available n s → ¬ RefillFits n s → exec (.brGetValue n) s = .refused .refillBeyond32)

/-- Exactly the refills that would put more than 32 bits in BIT_BUFFER are refused, and with at most 7 bits buffered,
as the sequencer has it (R137), no BR.GET_VALUE of 25 bits or fewer is (40_bit_stream_reader.md R140). -/
def Obligations.RefillBeyond32Refused : Prop :=
  ∀ (n : Nat) (s : State), ReaderInv s →
    (exec (.brGetValue n) s = .refused .refillBeyond32 ↔ n ≤ 32 ∧ Available n s ∧ ¬ RefillFits n s) ∧
    (exec (.brRead n) s = .refused .refillBeyond32 ↔
      n ≤ 32 ∧ (n + 7) / 8 ≤ s.byteStreamSize.toNat - s.byteStreamOffset.toNat ∧
        32 < s.bitBufferSize.toNat + 8 * ((n + 7) / 8)) ∧
    (s.bitBufferSize.toNat ≤ 7 → n ≤ 25 → ∃ t, exec (.brGetValue n) s = .next t)

/-- BR.FLUSH drops the `BIT_BUFFER_SIZE mod 8` lowest bits: POS goes to the next byte boundary, no byte is read
(40_bit_stream_reader.md R136); with at most 7 bits buffered nothing stays in the buffer (R137). -/
def Obligations.BrFlushAligns : Prop :=
  ∀ s : State, ReaderInv s →
    ∃ t, exec .brFlush s = .next t ∧ SameButReader s t ∧
      t.bitBuffer.toNat = s.bitBuffer.toNat / 2 ^ (s.bitBufferSize.toNat % 8) ∧
      t.bitBufferSize.toNat = s.bitBufferSize.toNat - s.bitBufferSize.toNat % 8 ∧
      t.byteStreamOffset = s.byteStreamOffset ∧
      t.bitBufferSize.toNat % 8 = 0 ∧ t.pos = alignUp s.pos ∧ ReaderInv t ∧
      (s.bitBufferSize.toNat ≤ 7 → t.bitBuffer = 0 ∧ t.bitBufferSize = 0)

/-- On an aligned reader BR.READ_BYTE returns the byte of IN at POS / 8 and BR.REMAINING_BYTES the number of bytes from
there to the end (40_bit_stream_reader.md R138). -/
def Obligations.AlignedByteAccess : Prop :=
  ∀ s : State, ReaderInv s → s.bitBufferSize.toNat % 8 = 0 →
    (Available 8 s →
      ∃ r, exec .brReadByte s = .next { r with unitResult := (memReadIn (s.pos / 8) s).toNat } ∧
        SameButReader s r ∧ r.pos = s.pos + 8 ∧ r.bitBufferSize.toNat % 8 = 0 ∧ ReaderInv r) ∧
    (¬ Available 8 s → exec .brReadByte s = .next (takeError .outOfData s)) ∧
    exec .brRemainingBytes s = .next { s with unitResult := s.byteStreamSize.toNat - s.pos / 8 }

/-! ## The Huffman tree decoder -/

/-- HT.BUILD makes the canonical code of the code lengths: the counts, the first codes by the recurrence, and the
symbols of each length in increasing order; a length above 15 raises before anything changes
(41_huffman_tree_decoder.md R152). -/
def Obligations.HtBuildMakesCanonicalTree : Prop :=
  ∀ (t : TreeId) (lengths : List (BitVec 8)) (s : State), t.writable = true →
    1 ≤ lengths.length → lengths.length ≤ 288 →
    ((∃ l ∈ lengths, 15 < l.toNat) → exec (.htBuild t lengths) s = .next (takeError .invalidCodeLengths s)) ∧
    ((∀ l ∈ lengths, l.toNat ≤ 15) →
      ∃ T : TreeStore, exec (.htBuild t lengths) s = .next (s.setTree t T) ∧ CanonicalTree lengths T)

/-- THE MODEL'S CHOICE outside the operands of 41_huffman_tree_decoder.md R150. With no code length, or more than 288, the
lengths are tested and the tree is made by the pseudocode of R152 all the same (log 40); with more than NUMBER_OF_SYMBOLS
can count the tree is a free value, but built (log 40). A constant store is read-only (10_state.md R28): there the build
raises on a length above 15, does nothing where it would make what the store holds, and is refused otherwise (log 16). -/
def Obligations.HtBuildOutsideItsOperands : Prop :=
  ∀ (t : TreeId) (lengths : List (BitVec 8)) (s : State),
    ((∃ l ∈ lengths, 15 < l.toNat) → exec (.htBuild t lengths) s = .next (takeError .invalidCodeLengths s)) ∧
    (t.writable = true → (∀ l ∈ lengths, l.toNat ≤ 15) → lengths.length = 0 ∨ 288 < lengths.length →
      ∃ T : TreeStore, T.built = true ∧
        (lengths.length ≤ 511 → exec (.htBuild t lengths) s = .next (s.setTree t T) ∧ CanonicalTree lengths T) ∧
        (511 < lengths.length →
          exec (.htBuild t lengths) s = .next { s.setTree t T with freeCount := s.freeCount + 1 })) ∧
    (t.writable = false → (∀ l ∈ lengths, l.toNat ≤ 15) →
      exec (.htBuild t lengths) s =
        if lengths.length ≤ 511 ∧ buildTree lengths = s.tree t then .next s else .refused (.readOnlyTree t))

/-- HT.DECODE_SYMBOL returns the symbol of the first length at which the bits read are a code, consuming exactly
that many; CorruptedCode after 15 bits without a match; OutOfData at the missing bit; a store that is not built is
refused (41_huffman_tree_decoder.md R156; 10_state.md R30; 20_memory.md R74). -/
def Obligations.HtDecodeSymbolFirstMatch : Prop :=
  ∀ (t : TreeId) (s : State), ReaderInv s →
    ((s.tree t).built = false → exec (.htDecodeSymbol t) s = .refused (.treeNotBuilt t)) ∧
    ((s.tree t).built = true →
      (∀ L sym, 1 ≤ L → L ≤ 15 → Available L s →
        (∀ j, 1 ≤ j → j < L → (s.tree t).NoCode j (codeAt s s.pos j)) →
        (s.tree t).HasCode L (codeAt s s.pos L) sym →
          ∃ r, Taken L s r ∧ exec (.htDecodeSymbol t) s = .next { r with unitResult := sym.toNat }) ∧
      (Available 15 s → (∀ j, 1 ≤ j → j ≤ 15 → (s.tree t).NoCode j (codeAt s s.pos j)) →
        ∃ r, Taken 15 s r ∧ exec (.htDecodeSymbol t) s = .next (takeError .corruptedCode r)) ∧
      (∀ m, m < 15 → Available m s → ¬ Available (m + 1) s →
        (∀ j, 1 ≤ j → j ≤ m → (s.tree t).NoCode j (codeAt s s.pos j)) →
          ∃ r, Taken m s r ∧ exec (.htDecodeSymbol t) s = .next (takeError .outOfData r)))

/-- Canonical codes decode: with code lengths that do not take more than the whole code space, the code of symbol `i`
(its first code plus the number of symbols below `i` of the same length) decodes to `i`, consuming its length
(41_huffman_tree_decoder.md R152, R158, R162). -/
def Obligations.CanonicalCodesDecode : Prop :=
  ∀ (t : TreeId) (lengths : List (BitVec 8)) (s : State) (i L : Nat), ReaderOk s →
    lengths.length ≤ 288 → (∀ l ∈ lengths, l.toNat ≤ 15) → codeSpace lengths ≤ 2 ^ 15 →
    s.tree t = buildTree lengths → (lengths[i]?).map BitVec.toNat = some L → 1 ≤ L → Available L s →
    codeAt s s.pos L = firstCodeOf lengths L + ((symbolsOfLength lengths L).filter fun j => decide (j < i)).length →
      ∃ r, Consumed L s r ∧ exec (.htDecodeSymbol t) s = .next { r with unitResult := i }

/-- A symbol that a tree HT.BUILD has made gives is below its number of symbols (41_huffman_tree_decoder.md R158), and
the tables are never read out of bounds: a valid pair has a symbol (R154). -/
def Obligations.SymbolsBelowNumberOfSymbols : Prop :=
  ∀ (lengths : List (BitVec 8)) (L c : Nat), lengths.length ≤ 288 →
    (∀ sym, (buildTree lengths).HasCode L c sym → sym.toNat < (buildTree lengths).numberOfSymbols.toNat) ∧
    (¬ (buildTree lengths).NoCode L c → ∃ sym, (buildTree lengths).HasCode L c sym)

/-- The two constant trees are what HT.BUILD's rule makes of the fixed lengths, are always built, and have the values
41_huffman_tree_decoder.md R160 lists. -/
def Obligations.FixedTreesAreBuilt : Prop :=
  fixLitTree = buildTree fixLitLengths ∧ fixDistTree = buildTree fixDistLengths ∧
  (∀ s : State, (s.tree .fixLit).built = true ∧ (s.tree .fixDist).built = true) ∧
  (∀ i, i < 288 → fixLitLengths[i]? =
    some (if i ≤ 143 then 8 else if i ≤ 255 then 9 else if i ≤ 279 then 7 else 8)) ∧
  fixLitLengths.length = 288 ∧ fixDistLengths = List.replicate 30 5 ∧
  fixLitTree.numberOfSymbols = 288 ∧ fixDistTree.numberOfSymbols = 30 ∧
  fixLitTree.countAt 7 = 24 ∧ fixLitTree.countAt 8 = 152 ∧ fixLitTree.countAt 9 = 112 ∧
  fixLitTree.firstCodeAt 7 = 0 ∧ fixLitTree.firstCodeAt 8 = 48 ∧ fixLitTree.firstCodeAt 9 = 400 ∧
  (fixLitTree.symsAt 7).map BitVec.toNat = (List.range 24).map (256 + ·) ∧
  (fixLitTree.symsAt 8).map BitVec.toNat = List.range 144 ++ (List.range 8).map (280 + ·) ∧
  (fixLitTree.symsAt 9).map BitVec.toNat = (List.range 112).map (144 + ·) ∧
  fixDistTree.countAt 5 = 30 ∧ fixDistTree.firstCodeAt 5 = 0 ∧
  (fixDistTree.symsAt 5).map BitVec.toNat = List.range 30

/-- The fixed-code rows: the code of `first + i` is the row's first code plus `i`, and the row consumes the code's
bits and returns the symbol (30_encoding.md R118). Where the symbol goes, `unitResult`, is the model's (log 7, log 12). -/
def Obligations.FixedCodeRows : Prop :=
  ∀ s : State, ReaderOk s →
    (∀ c : BitVec 7, c.toNat ≤ 23 → Available 7 s →
      ∃ r, Consumed 7 s r ∧ exec (.fixlit7 c) s = .next { r with unitResult := 256 + c.toNat }) ∧
    (∀ c : BitVec 8, 48 ≤ c.toNat → c.toNat ≤ 191 → Available 8 s →
      ∃ r, Consumed 8 s r ∧ exec (.fixlit8a c) s = .next { r with unitResult := c.toNat - 48 }) ∧
    (∀ c : BitVec 8, 192 ≤ c.toNat → c.toNat ≤ 199 → Available 8 s →
      ∃ r, Consumed 8 s r ∧ exec (.fixlit8b c) s = .next { r with unitResult := 280 + (c.toNat - 192) }) ∧
    (∀ c : BitVec 9, 400 ≤ c.toNat → Available 9 s →
      ∃ r, Consumed 9 s r ∧ exec (.fixlit9 c) s = .next { r with unitResult := 144 + (c.toNat - 400) }) ∧
    (∀ c : BitVec 5, c.toNat ≤ 29 → Available 5 s →
      ∃ r, Consumed 5 s r ∧ exec (.fixdist5 c) s = .next { r with unitResult := c.toNat })

/-! ## The checksum unit -/

/-- ADLER.INIT, ADLER.UPDATE and ADLER.FINAL on numbers, where the additions do not wrap
(45_adler32_checksum.md R236, R238, R242; that they never do is R240). -/
def Obligations.AdlerOperations : Prop :=
  (∀ (v : Word) (s : State),
    exec (.adlerInit v) s = .next { s with
      adlerLo := BitVec.ofNat 32 (v.toNat % 65536), adlerHi := BitVec.ofNat 32 (v.toNat / 65536), adlerChunk := 0 }) ∧
  (∀ (b : Byte) (s : State), s.adlerChunk.toNat < 5552 →
    s.adlerHi.toNat + (s.adlerLo.toNat + b.toNat) < 2 ^ 32 →
    ∃ lo hi, lo = s.adlerLo.toNat + b.toNat ∧ hi = s.adlerHi.toNat + lo ∧
      exec (.adlerUpdate b) s = .next (if s.adlerChunk.toNat + 1 = 5552
        then { s with
          adlerLo := BitVec.ofNat 32 (lo % 65521), adlerHi := BitVec.ofNat 32 (hi % 65521), adlerChunk := 0 }
        else { s with
          adlerLo := BitVec.ofNat 32 lo, adlerHi := BitVec.ofNat 32 hi
          adlerChunk := BitVec.ofNat 13 (s.adlerChunk.toNat + 1) })) ∧
  (∀ (s : State) (lo hi : Nat), lo = s.adlerLo.toNat % 65521 → hi = s.adlerHi.toNat % 65521 →
    exec .adlerFinal s = .next { s with
      adlerLo := BitVec.ofNat 32 lo, adlerHi := BitVec.ofNat 32 hi, unitResult := hi * 65536 + lo })

/-- ADLER.INIT, an ADLER.UPDATE for each byte and ADLER.FINAL return the checksum that 45_adler32_checksum.md R235
defines, for every byte sequence, and change nothing but the unit's registers (R244). For an empty sequence the
initial value's halves must be reduced, since ADLER.FINAL reduces them. -/
def Obligations.AdlerUnitComputesAdler32 : Prop :=
  ∀ (bytes : List Byte) (v : Word) (s : State),
    bytes ≠ [] ∨ (v.toNat % 65536 < 65521 ∧ v.toNat / 65536 < 65521) →
      ∃ t, execAll (.adlerInit v :: (bytes.map Instr.adlerUpdate ++ [.adlerFinal])) s = .next t ∧
        t.unitResult = adler32 bytes v ∧
        t = { s with
          adlerLo := t.adlerLo, adlerHi := t.adlerHi, adlerChunk := t.adlerChunk, unitResult := t.unitResult }

/-- Between two reductions the 32-bit sums do not wrap: at most 5552 additions from reduced sums give the sums on
numbers, at most 4294690200 (45_adler32_checksum.md R240). -/
def Obligations.AdlerSumsDoNotWrap : Prop :=
  ∀ (bytes : List Byte) (s : State), bytes.length ≤ 5552 → s.adlerLo.toNat ≤ 65520 → s.adlerHi.toNat ≤ 65520 →
    (bytes.foldl (fun u b => adlerAdd b u) s).adlerLo.toNat = (adlerRaw bytes (s.adlerLo.toNat, s.adlerHi.toNat)).1 ∧
    (bytes.foldl (fun u b => adlerAdd b u) s).adlerHi.toNat = (adlerRaw bytes (s.adlerLo.toNat, s.adlerHi.toNat)).2 ∧
    (adlerRaw bytes (s.adlerLo.toNat, s.adlerHi.toNat)).2 ≤ 4294690200 ∧
    (adlerRaw bytes (s.adlerLo.toNat, s.adlerHi.toNat)).1 < 65521 + 5552 * 255

/-! ## The header and the block headers -/

/-- The four header rows: what each does once its bytes are there, and OutOfData when they are not
(42_deflate_framing.md R170; 30_encoding.md R122). -/
def Obligations.HeaderRows : Prop :=
  ∀ (cinfo3 : BitVec 3) (cm cinfo4 : BitVec 4) (fcheck : BitVec 5) (fdict : BitVec 1) (flevel : BitVec 2) (s : State),
    (2 ≤ s.inSize.toNat →
      exec (.zhdr cinfo3 fcheck flevel) s = .next { s with
        byteStreamSize := s.inSize, byteStreamOffset := 2, bitBuffer := 0, bitBufferSize := 0
        outOffset := 0, seqState := .expectBlockHeader } ∧
      exec (.zhdrFdict cinfo3 fcheck flevel) s = .next (takeError .unsupportedValue s)) ∧
    (1 ≤ s.inSize.toNat →
      exec (.zhdrBadwindow cinfo3 fcheck fdict flevel) s = .next (takeError .unsupportedValue s) ∧
      exec (.zhdrBadcm cm cinfo4 fcheck fdict flevel) s = .next (takeError .unsupportedCompressionMethod s)) ∧
    (s.inSize.toNat < 2 →
      exec (.zhdr cinfo3 fcheck flevel) s = .next (takeError .outOfData s) ∧
      exec (.zhdrFdict cinfo3 fcheck flevel) s = .next (takeError .outOfData s)) ∧
    (s.inSize.toNat < 1 →
      exec (.zhdrBadwindow cinfo3 fcheck fdict flevel) s = .next (takeError .outOfData s) ∧
      exec (.zhdrBadcm cm cinfo4 fcheck fdict flevel) s = .next (takeError .outOfData s))

/-- The step in HEADER: the five tests on the bytes of IN, in the order of 42_deflate_framing.md R170. -/
def Obligations.HeaderStepTestsInOrder : Prop :=
  ∀ s : State, s.seqState = .header → s.inputs = [] →
    step s = .next (
      if s.inSize.toNat < 1 then takeError .outOfData s
      else if (memReadIn 0 s).toNat % 16 ≠ 8 then takeError .unsupportedCompressionMethod s
      else if 7 < (memReadIn 0 s).toNat / 16 then takeError .unsupportedValue s
      else if s.inSize.toNat < 2 then takeError .outOfData s
      else if (memReadIn 1 s).toNat / 32 % 2 = 1 then takeError .unsupportedValue s
      else { s with
        byteStreamSize := s.inSize, byteStreamOffset := 2, bitBuffer := 0, bitBufferSize := 0
        outOffset := 0, seqState := .expectBlockHeader })

/-- The four block headers consume 3 bits, set the two flags, and go to their block, or raise UnsupportedValue
(42_deflate_framing.md R174, R175, R178, R179, R180). The place inside the block is the model's register (log 6). -/
def Obligations.BlockHeaders : Prop :=
  ∀ (last : Bool) (s : State), ReaderOk s → Available 3 s →
    ∃ r, Consumed 3 s r ∧
      exec (.bhdrStored last) s = .next { r with
        lastBlockFlag := last, blockType := 0, seqState := .storedBlock } ∧
      exec (.bhdrFixed last) s = .next { r with
        lastBlockFlag := last, blockType := 1, seqState := .fixedHuffmanBlock, place := .litCode } ∧
      exec (.bhdrDynamic last) s = .next { r with
        lastBlockFlag := last, blockType := 2, seqState := .dynamicHuffmanBlock, place := .dynhdr } ∧
      exec (.bhdrReserved last) s = .next (takeError .unsupportedValue { r with
        lastBlockFlag := last, blockType := 3 })

/-! ## The stored block -/

/-- STORED: after the PAD and the two fields, the three tests in order, then the `len` bytes of IN that stand next are
in OUT at the old OUT_OFFSET, every other byte of OUT is as before, and the block ends (42_deflate_framing.md R176). -/
def Obligations.StoredBlock : Prop :=
  ∀ (len nlen : BitVec 16) (s : State) (p : Nat), ReaderOk s → p = alignUp s.pos →
    (8 * s.byteStreamSize.toNat < p + 32 →
      ∃ r, exec (.stored len nlen) s = .next (takeError .outOfData r) ∧
        r = { s with
          bitBuffer := r.bitBuffer, bitBufferSize := r.bitBufferSize, byteStreamOffset := r.byteStreamOffset
          storedLen := r.storedLen }) ∧
    (p + 32 ≤ 8 * s.byteStreamSize.toNat →
      ∃ q, q = { atByte (p / 8 + 4) s with storedLen := len, storedNlen := nlen } ∧
        (len ^^^ nlen ≠ 0xffff → exec (.stored len nlen) s = .next (takeError .valueMismatch q)) ∧
        (len ^^^ nlen = 0xffff →
          s.outCapacity.toNat < s.outOffset.toNat + len.toNat ∨ 8 * s.byteStreamSize.toNat < p + 32 + 8 * len.toNat →
            exec (.stored len nlen) s = .next (takeError .insufficientSpace q)) ∧
        (len ^^^ nlen = 0xffff → s.outOffset.toNat + len.toNat ≤ s.outCapacity.toNat →
          p + 32 + 8 * len.toNat ≤ 8 * s.byteStreamSize.toNat →
            ∃ t, exec (.stored len nlen) s = .next (endOfBlock t) ∧
              t = { q with
                byteStreamOffset := BitVec.ofNat 32 (p / 8 + 4 + len.toNat)
                outMem := t.outMem, outOffset := BitVec.ofNat 32 (s.outOffset.toNat + len.toNat) } ∧
              (∀ i, i < len.toNat → memReadOut (s.outOffset.toNat + i) t = memReadIn (p / 8 + 4 + i) s) ∧
              OutKept s.outOffset.toNat len.toNat s t))

/-! ## The tree description of a dynamic block -/

/-- DYNHDR: the three counts, and ValueOutOfBounds when a count is above its legal maximum
(42_deflate_framing.md R181; 30_encoding.md R119). -/
def Obligations.DynhdrSetsCounts : Prop :=
  ∀ (hlit hdist : BitVec 5) (hclen : BitVec 4) (s : State), ReaderOk s → Available 14 s →
    ∃ r c, Consumed 14 s r ∧
      c = { r with
        numLiteralCodes := BitVec.ofNat 9 (hlit.toNat + 257), numDistanceCodes := BitVec.ofNat 6 (hdist.toNat + 1)
        numCodeLengthCodes := BitVec.ofNat 5 (hclen.toNat + 4) } ∧
      exec (.dynhdr hlit hdist hclen) s = .next (
        if 286 < hlit.toNat + 257 ∨ 30 < hdist.toNat + 1 then takeError .valueOutOfBounds c
        else { c with place := .prelen 0 })

/-- PRELEN: the `i`-th length goes to the entry CL_ORDER names, the first clears the others, and after the last the
pre-code tree is built and CL_INDEX cleared (42_deflate_framing.md R182). The loop index is the model's register (log 6). -/
def Obligations.PrelenStoresInOrder : Prop :=
  ∀ (length : BitVec 3) (i : Nat) (s : State), ReaderOk s → Available 3 s → s.place = .prelen i →
    i < s.numCodeLengthCodes.toNat → s.numCodeLengthCodes.toNat ≤ 19 →
      ∃ (r : State) (P : Vector (BitVec 3) 19), Consumed 3 s r ∧
        (∀ (j : Nat) (h : j < 19),
          P[j] = if j = clOrderAt i then length else if i = 0 then 0 else s.preLengths[j]) ∧
        exec (.prelen length) s = .next (
          if i + 1 < s.numCodeLengthCodes.toNat then { r with preLengths := P, place := .prelen (i + 1) }
          else { r with
            preLengths := P, preTree := buildTree (P.toList.map (·.setWidth 8)), clIndex := 0, place := .clCode })

/-- CL.LEN appends one code length (42_deflate_framing.md R184), and the loop goes on until all are set (R183). -/
def Obligations.ClLenAppends : Prop :=
  ∀ (length : BitVec 4) (s : State), s.clIndex.toNat < s.totalLengths → s.totalLengths ≤ 316 →
    ∃ t, exec (.clLen length) s = .next t ∧
      t = { s with
        codeLengths := t.codeLengths
        clIndex := BitVec.ofNat 9 (s.clIndex.toNat + 1)
        place := if s.clIndex.toNat + 1 < s.totalLengths then .clCode else .dyntrees } ∧
      ∀ (j : Nat) (h : j < 316), t.codeLengths[j] = if j = s.clIndex.toNat then length else s.codeLengths[j]

/-- CL.REP, CL.ZREP3 and CL.ZREP11: the extra bits, the test against the total, and the repeated entries
(42_deflate_framing.md R185, R187, R188). -/
def Obligations.RepeatsAppend : Prop :=
  ∀ (s : State) (hle : s.clIndex.toNat ≤ 316), ReaderOk s → s.totalLengths ≤ 316 →
    (s.clIndex.toNat = 0 → exec .clRep s = .next (takeError .valueOutOfBounds s)) ∧
    (s.clIndex.toNat ≠ 0 → Available 2 s →
      ∃ r, Consumed 2 s r ∧
        Repeated (3 + fieldAt s s.pos 2) (s.codeLengths[s.clIndex.toNat - 1]'(by omega)) r (exec .clRep s)) ∧
    (Available 3 s → ∃ r, Consumed 3 s r ∧ Repeated (3 + fieldAt s s.pos 3) 0 r (exec .clZrep3 s)) ∧
    (Available 7 s → ∃ r, Consumed 7 s r ∧ Repeated (11 + fieldAt s s.pos 7) 0 r (exec .clZrep11 s))

/-- DYNTREES: MissingEndOfBlockCode when symbol 256 has no code, else the two trees of the two parts of CODE_LENGTHS
(42_deflate_framing.md R186). That an entry past the 316, which a bare DYNTREES may ask for after a rejected DYNHDR, is
a free value is the model's choice (log 36), and so is that a bare DYNTREES runs while CL_INDEX differs from total
(log 39). -/
def Obligations.DyntreesBuildsBoth : Prop :=
  ∀ (s : State) (lit dist : List (BitVec 8)) (entry : Nat → BitVec 4),
    (∀ j, entry j = if h : j < 316 then s.codeLengths[j] else Config.freeLength s.freeCount j) →
    lit = (List.range s.numLiteralCodes.toNat).map (fun j => (entry j).setWidth 8) →
    dist = (List.range s.numDistanceCodes.toNat).map (fun j => (entry (s.numLiteralCodes.toNat + j)).setWidth 8) →
      exec .dyntrees s = .next (
        if s.codeLengths[256] = 0 then takeError .missingEndOfBlockCode s
        else { s with
          dynLitTree := buildTree lit, dynDistTree := buildTree dist, place := .litCode
          freeCount := if s.totalLengths ≤ 316 then s.freeCount else s.freeCount + 1 })

/-! ## The symbols of a Huffman block -/

/-- LIT: InsufficientSpace when OUT is full, else the byte at OUT_OFFSET and nothing else of OUT
(43_lz77_expander.md R202). -/
def Obligations.LitWritesOneByte : Prop :=
  ∀ (b : Byte) (s : State),
    (s.outCapacity.toNat ≤ s.outOffset.toNat → exec (.lit b) s = .next (takeError .insufficientSpace s)) ∧
    (s.outOffset.toNat < s.outCapacity.toNat →
      ∃ t, exec (.lit b) s = .next t ∧
        t = { s with
          outMem := t.outMem, outOffset := BitVec.ofNat 32 (s.outOffset.toNat + 1), place := .litCode } ∧
        memReadOut s.outOffset.toNat t = b ∧ OutKept s.outOffset.toNat 1 s t)

/-- EOB ends the block: the trees of a dynamic block are discarded, and the trailer or the next block header comes
next (43_lz77_expander.md R204; 44_decompress_top.md R230; 42_deflate_framing.md R189). -/
def Obligations.EobEndsBlock : Prop :=
  ∀ s : State,
    ∃ t, exec .eob s = .next t ∧
      t = { s with
        preTree := { s.preTree with built := s.preTree.built && s.blockType != 2 }
        dynLitTree := { s.dynLitTree with built := s.dynLitTree.built && s.blockType != 2 }
        dynDistTree := { s.dynDistTree with built := s.dynDistTree.built && s.blockType != 2 }
        seqState := if s.lastBlockFlag then .trailer else .expectBlockHeader }

/-- LEN.k: the base and the extra bits make LENGTH, between 3 and 258; a distance code comes next
(43_lz77_expander.md R206). -/
def Obligations.LengthRows : Prop :=
  ∀ (i : Instr) (k : Nat) (s : State), i.lenIndex = some k → ReaderOk s →
    (¬ Available (lenExtra k) s → exec i s = .next (takeError .outOfData s)) ∧
    (Available (lenExtra k) s →
      ∃ r v, Consumed (lenExtra k) s r ∧ v = lenBase k + fieldAt s s.pos (lenExtra k) ∧ 3 ≤ v ∧ v ≤ 258 ∧
        exec i s = .next { r with length := BitVec.ofNat 9 v, place := .distCode })

/-- DIST.j: the base and the extra bits make DISTANCE, between 1 and 32768; the checks and the copy come next
(43_lz77_expander.md R208). -/
def Obligations.DistanceRows : Prop :=
  ∀ (i : Instr) (j : Nat) (s : State), i.distIndex = some j → ReaderOk s →
    (¬ Available (distExtra j) s → exec i s = .next (takeError .outOfData s)) ∧
    (Available (distExtra j) s →
      ∃ r v, Consumed (distExtra j) s r ∧ v = distBase j + fieldAt s s.pos (distExtra j) ∧ 1 ≤ v ∧ v ≤ 32768 ∧
        exec i s = .next { r with distance := BitVec.ofNat 16 v, place := .matchCopy })

/-- The length and distance tables are without gap or overlap but for length 258, which two rows reach, and CL_ORDER
is a permutation of 0 .. 18 (30_encoding.md R104, R112, R114). -/
def Obligations.OperandTablesTile : Prop :=
  (∀ n, 3 ≤ n → n ≤ 258 →
    ∃ k, k < 29 ∧ lenBase k ≤ n ∧ n < lenBase k + 2 ^ lenExtra k ∧
      ∀ k', k' < 29 → lenBase k' ≤ n → n < lenBase k' + 2 ^ lenExtra k' → k' = k ∨ n = 258) ∧
  (∀ d, 1 ≤ d → d ≤ 32768 →
    ∃ j, j < 30 ∧ distBase j ≤ d ∧ d < distBase j + 2 ^ distExtra j ∧
      ∀ j', j' < 30 → distBase j' ≤ d → d < distBase j' + 2 ^ distExtra j' → j' = j) ∧
  (∀ j, j < 29 → distBase (j + 1) = distBase j + 2 ^ distExtra j) ∧
  (∀ a, a ≤ 18 → ∃ i, i ≤ 18 ∧ clOrderAt i = a) ∧
  (∀ i j, i ≤ 18 → j ≤ 18 → clOrderAt i = clOrderAt j → i = j)

/-- The reserved symbols raise InvalidSymbol and do nothing else (43_lz77_expander.md R214; the guard of R208). -/
def Obligations.ReservedSymbolsRaise : Prop :=
  ∀ s : State,
    exec .litlenRsvd286 s = .next (takeError .invalidSymbol s) ∧
    exec .litlenRsvd287 s = .next (takeError .invalidSymbol s) ∧
    exec .distRsvd30 s = .next (takeError .invalidSymbol s) ∧
    exec .distRsvd31 s = .next (takeError .invalidSymbol s)

/-- MATCH: the two checks in order, with sums that do not wrap, then the copy: the last DISTANCE bytes of the output
repeated cyclically, each read seeing the writes before it, and no other byte of OUT (43_lz77_expander.md R210, R212).
That a copy at DISTANCE = 0, outside its range, writes free values, of which nothing is said, is the model's choice
(log 32). -/
def Obligations.MatchChecksThenCopies : Prop :=
  ∀ s : State,
    (s.outOffset.toNat < s.distance.toNat → exec .matchCopy s = .next (takeError .valueOutOfBounds s)) ∧
    (s.distance.toNat ≤ s.outOffset.toNat → s.outCapacity.toNat < s.outOffset.toNat + s.length.toNat →
      exec .matchCopy s = .next (takeError .insufficientSpace s)) ∧
    (s.distance.toNat ≤ s.outOffset.toNat → s.outOffset.toNat + s.length.toNat ≤ s.outCapacity.toNat →
      (s.distance = 0 →
        ∃ t, exec .matchCopy s = .next { t with place := .litCode } ∧ CopiedFree s.length.toNat s t) ∧
      (s.distance ≠ 0 →
        ∃ t, exec .matchCopy s = .next { t with place := .litCode } ∧ Copied s.length.toNat s.distance.toNat s t))

/-- LZ.COPY on its own, with the checks before it as the vectors L18 and L19 of 95_test_vectors.md have them (log 17):
the copy of 43_lz77_expander.md R212. The free values at a distance of 0 are the model's choice (log 32), and that other
lengths and distances outside the ranges of 10_state.md R34 are copied alike (log 40). -/
def Obligations.LzCopyCopies : Prop :=
  ∀ (length : BitVec 9) (distance : BitVec 16) (s : State),
    (s.outOffset.toNat < distance.toNat →
      exec (.lzCopy length distance) s = .next (takeError .valueOutOfBounds s)) ∧
    (distance.toNat ≤ s.outOffset.toNat → s.outCapacity.toNat < s.outOffset.toNat + length.toNat →
      exec (.lzCopy length distance) s = .next (takeError .insufficientSpace s)) ∧
    (distance.toNat ≤ s.outOffset.toNat → s.outOffset.toNat + length.toNat ≤ s.outCapacity.toNat →
      (distance = 0 → ∃ t, exec (.lzCopy length distance) s = .next t ∧ CopiedFree length.toNat s t) ∧
      (distance ≠ 0 →
        ∃ t, exec (.lzCopy length distance) s = .next t ∧ Copied length.toNat distance.toNat s t))

/-! ## The trailer, the start of a call, errors -/

/-- TRAILER: OutOfData when fewer than 4 bytes follow the PAD; else the Adler-32 of the output decides between DONE,
with OUT_COUNT the number of bytes written, and ChecksumMismatch (44_decompress_top.md R224, R226, R228). The checksum
registers hold what the pass leaves (45_adler32_checksum.md R236, R238, R242), the model's form of R226. -/
def Obligations.TrailerDecidesCall : Prop :=
  ∀ (hi lo : BitVec 16) (s : State) (p v : Nat), ReaderOk s → p = alignUp s.pos →
    v = adler32 (outBytes s.outOffset.toNat s) 1 →
      (8 * s.byteStreamSize.toNat < p + 32 →
        ∃ r, SameButReader s r ∧ exec (.trailer hi lo) s = .next (takeError .outOfData r)) ∧
      (p + 32 ≤ 8 * s.byteStreamSize.toNat →
        ∃ q, q = { atByte (p / 8 + 4) s with
            adlerLo := BitVec.ofNat 32 (v % 65536), adlerHi := BitVec.ofNat 32 (v / 65536)
            adlerChunk := BitVec.ofNat 13 (s.outOffset.toNat % 5552) } ∧
          exec (.trailer hi lo) s = .next (
            if hi.toNat * 65536 + lo.toNat = v then { q with outCount := s.outOffset, seqState := .done }
            else takeError .checksumMismatch q))

/-- START begins a call: the registers 70_reset_and_hazards.md R284 names, and BIT_BUFFER and BIT_BUFFER_SIZE at their
"at start" values (10_state.md R22, log 19); while BUSY it is ignored (R286). BYTE_STREAM_OFFSET, which the spec gives no
value until the header is good, is a free value of which only R23's bound is said (log 19). That the other registers keep
what they hold is the model's choice where the spec calls them unspecified at start (log 33). -/
def Obligations.StartBeginsCall : Prop :=
  ∀ (ignored : BitVec 31) (s : State),
    (s.busy = true → exec (.decompress ignored) s = .next s) ∧
    (s.busy = false →
      ∃ t, exec (.decompress ignored) s = .next t ∧
        t = { s with
          errorCode := 0, outCount := 0, byteStreamSize := s.inSize, byteStreamOffset := t.byteStreamOffset
          bitBuffer := 0, bitBufferSize := 0, freeCount := s.freeCount + 1
          lastBlockFlag := false, blockType := 0, outOffset := 0
          preTree := { s.preTree with built := false }
          dynLitTree := { s.dynLitTree with built := false }
          dynDistTree := { s.dynDistTree with built := false }
          seqState := .header } ∧
        t.byteStreamOffset.toNat ≤ s.inSize.toNat ∧ t.statusWord = 1)

/-- An element whose raw field is not all there raises OutOfData and consumes nothing
(40_bit_stream_reader.md R134, R142); CL.REP tests first whether there is a previous length (42_deflate_framing.md R185).
That a first PRELEN cut short leaves PRE_LENGTHS uncleared is the model's choice (log 34). -/
def Obligations.ShortFieldRaisesOutOfData : Prop :=
  ∀ (i : Instr) (n : Nat) (s : State), rawBits i = some n → ReaderOk s → ¬ Available n s →
    (i = .clRep → s.clIndex ≠ 0) → exec i s = .next (takeError .outOfData s)

/-- Taking an error: the kind, OUT_COUNT and the sequencer state, and nothing else but OUT, whose every byte is then a
free value (60_exceptions.md R256, R258, log 4); the host reads STATUS.ERROR, the code of R250 and a count of 0, and
the engine does not go on. -/
def Obligations.ErrorEntry : Prop :=
  ∀ (e : ErrorKind) (s : State),
    takeError e s = { s with
      errorCode := e.code, outCount := 0, seqState := .error, outMem := (takeError e s).outMem } ∧
    (∀ a, memReadOut a (takeError e s) = Config.unwrittenOut (s.outMem.epoch + 1) a) ∧
    (takeError e s).statusWord = 4 ∧ (takeError e s).outCountWord = 0 ∧
    (takeError e s).errorCodeWord = (match e with
      | .unsupportedCompressionMethod => 1 | .unsupportedValue => 2 | .outOfData => 3 | .valueMismatch => 4
      | .invalidCodeLengths => 5 | .valueOutOfBounds => 6 | .missingEndOfBlockCode => 7 | .invalidSymbol => 8
      | .corruptedCode => 9 | .insufficientSpace => 10 | .checksumMismatch => 11) ∧
    (s.inputs = [] → step (takeError e s) = .next (takeError e s))

/-- IDLE, DONE and ERROR are left by START and by hardware reset alone (44_decompress_top.md R222; 60_exceptions.md
R262): until then STATUS, ERROR_CODE and OUT_COUNT keep their values, whatever a bare operation raises; START clears
ERROR_CODE and OUT_COUNT and begins a fresh call. What the host can do is the model's list of moves (log 8), bare
operations among them (log 11). -/
def Obligations.IdleDoneErrorLeftOnlyByStartOrReset : Prop :=
  ∀ s t : State, s.busy = false → step s = .next t →
    (∀ v rest, s.inputs = .host (.writeReg 0 v) :: rest → v.toNat % 2 = 1 →
      t.seqState = .header ∧ t.statusWord = 1 ∧ t.errorCode = 0 ∧ t.errorCodeWord = 0 ∧ t.outCountWord = 0) ∧
    (∀ rest, s.inputs = .host .reset :: rest →
      t.seqState = .idle ∧ t.statusWord = 0 ∧ t.errorCodeWord = 0 ∧ t.outCountWord = 0) ∧
    ((∀ v rest, v.toNat % 2 = 1 → s.inputs ≠ .host (.writeReg 0 v) :: rest) →
      (∀ rest, s.inputs ≠ .host .reset :: rest) →
        t.seqState = s.seqState ∧ t.statusWord = s.statusWord ∧ t.errorCode = s.errorCode ∧
          t.errorCodeWord = s.errorCodeWord ∧ t.outCountWord = s.outCountWord)

/-- The host registers as read: CTRL 0, STATUS by the sequencer state with at most one bit, ERROR_CODE 0 unless ERROR,
OUT_COUNT 0 unless DONE (10_state.md R40); other numbers are faults (log 10). `hostData` is the model's (log 8). -/
def Obligations.HostReadsRegisters : Prop :=
  ∀ (s s0 : State) (n : Nat) (rest : List Input),
    s.inputs = .host (.readReg n) :: rest → s0 = { s with inputs := rest } →
      (n = 0 → step s = .next { s0 with hostData := 0 }) ∧
      (n = 1 → step s = .next { s0 with hostData :=
        if s.seqState = .idle then 0 else if s.seqState = .done then 2 else if s.seqState = .error then 4 else 1 }) ∧
      (n = 2 → step s = .next { s0 with hostData :=
        if s.seqState = .error then BitVec.ofNat 32 s.errorCode.toNat else 0 }) ∧
      (n = 3 → step s = .next { s0 with hostData := s.inSize }) ∧
      (n = 4 → step s = .next { s0 with hostData := s.outCapacity }) ∧
      (n = 5 → step s = .next { s0 with hostData := if s.seqState = .done then s.outCount else 0 }) ∧
      (5 < n → step s = .fault (.noSuchRegister n))
end

