-- ==== Sys2Proof/Laws/Host.lean ====
section
/-! SUPPORT. The laws of a bare unit operation: what it can do, and what it keeps of the sequencer and the host
registers. -/

namespace Sys2Proof.Machine

theorem outsideCall_raised {after : State} (h : after.seqState = .error) (before : State) :
    outsideCall before after = { after with
      seqState := before.seqState, errorCode := before.errorCode, outCount := before.outCount
      outMem := before.outMem, unitError := after.errorCode } := if_pos h

theorem outsideCall_completed {after : State} (h : after.seqState ≠ .error) (before : State) :
    outsideCall before after = { after with seqState := before.seqState, unitError := 0 } := if_neg h

/-- IDLE, DONE and ERROR are not left by a bare operation (44_decompress_top.md R222). -/
@[simp] theorem outsideCall_seqState (before after : State) : (outsideCall before after).seqState = before.seqState := by
  unfold outsideCall; split <;> rfl

@[simp] theorem outsideCall_inMem (before after : State) : (outsideCall before after).inMem = after.inMem := by
  unfold outsideCall; split <;> rfl

@[simp] theorem outsideCall_freeCount (before after : State) :
    (outsideCall before after).freeCount = after.freeCount := by
  unfold outsideCall; split <;> rfl

@[simp] theorem outsideCall_pos (before after : State) : (outsideCall before after).pos = after.pos := by
  unfold outsideCall; split <;> rfl

/-- An error that a bare operation takes leaves the sequencer, the host registers and OUT as they were. -/
theorem outsideCall_takeError (e : ErrorKind) (before r : State) :
    outsideCall before (takeError e r) = { r with
      seqState := before.seqState, errorCode := before.errorCode, outCount := before.outCount
      outMem := before.outMem, unitError := e.code } := rfl

/-- What is added to an outcome is added to its next state. -/
theorem mapNext_next {x : Host.Outcome State Fault Refusal} {f : State → State} {t : State}
    (h : mapNext x f = .next t) : ∃ u, x = .next u ∧ t = f u := by
  cases x with
  | next u => exact ⟨u, rfl, by injection h with h; exact h.symm⟩
  | fault r => cases h
  | refused r => cases h

/-- A bare operation answers a next state only outside BUSY and for an operation of a unit, and then it is the operation's
own, with the sequencer standing aside. -/
theorem issueUnit_next {i : Instr} {s t : State} (h : issueUnit i s = .next t) :
    s.busy = false ∧ i.issuable = true ∧
      ∃ u, exec i { s with seqState := .idle } = .next u ∧ t = outsideCall s u := by
  unfold issueUnit at h
  split at h
  · cases h
  · split at h
    · rename_i hb hi
      obtain ⟨u, hu⟩ := mapNext_next h
      exact ⟨by simpa using hb, hi, u, hu⟩
    · cases h

end Sys2Proof.Machine
end

