-- ==== Sys2Proof/Laws/State.lean ====
section
/-! SUPPORT. What each named update of State leaves in each field: one lemma per field per update, true by `rfl`. -/

namespace Sys2Proof.Machine

@[simp] theorem takeError_errorCode (e : ErrorKind) (s : State) : (takeError e s).errorCode = e.code := rfl
@[simp] theorem takeError_inSize (e : ErrorKind) (s : State) : (takeError e s).inSize = s.inSize := rfl
@[simp] theorem takeError_outCapacity (e : ErrorKind) (s : State) : (takeError e s).outCapacity = s.outCapacity := rfl
@[simp] theorem takeError_outCount (e : ErrorKind) (s : State) : (takeError e s).outCount = 0 := rfl
@[simp] theorem takeError_byteStreamSize (e : ErrorKind) (s : State) : (takeError e s).byteStreamSize = s.byteStreamSize := rfl
@[simp] theorem takeError_byteStreamOffset (e : ErrorKind) (s : State) : (takeError e s).byteStreamOffset = s.byteStreamOffset := rfl
@[simp] theorem takeError_bitBuffer (e : ErrorKind) (s : State) : (takeError e s).bitBuffer = s.bitBuffer := rfl
@[simp] theorem takeError_bitBufferSize (e : ErrorKind) (s : State) : (takeError e s).bitBufferSize = s.bitBufferSize := rfl
@[simp] theorem takeError_preTree (e : ErrorKind) (s : State) : (takeError e s).preTree = s.preTree := rfl
@[simp] theorem takeError_dynLitTree (e : ErrorKind) (s : State) : (takeError e s).dynLitTree = s.dynLitTree := rfl
@[simp] theorem takeError_dynDistTree (e : ErrorKind) (s : State) : (takeError e s).dynDistTree = s.dynDistTree := rfl
@[simp] theorem takeError_seqState (e : ErrorKind) (s : State) : (takeError e s).seqState = .error := rfl
@[simp] theorem takeError_lastBlockFlag (e : ErrorKind) (s : State) : (takeError e s).lastBlockFlag = s.lastBlockFlag := rfl
@[simp] theorem takeError_blockType (e : ErrorKind) (s : State) : (takeError e s).blockType = s.blockType := rfl
@[simp] theorem takeError_outOffset (e : ErrorKind) (s : State) : (takeError e s).outOffset = s.outOffset := rfl
@[simp] theorem takeError_storedLen (e : ErrorKind) (s : State) : (takeError e s).storedLen = s.storedLen := rfl
@[simp] theorem takeError_storedNlen (e : ErrorKind) (s : State) : (takeError e s).storedNlen = s.storedNlen := rfl
@[simp] theorem takeError_numLiteralCodes (e : ErrorKind) (s : State) : (takeError e s).numLiteralCodes = s.numLiteralCodes := rfl
@[simp] theorem takeError_numDistanceCodes (e : ErrorKind) (s : State) : (takeError e s).numDistanceCodes = s.numDistanceCodes := rfl
@[simp] theorem takeError_numCodeLengthCodes (e : ErrorKind) (s : State) : (takeError e s).numCodeLengthCodes = s.numCodeLengthCodes := rfl
@[simp] theorem takeError_preLengths (e : ErrorKind) (s : State) : (takeError e s).preLengths = s.preLengths := rfl
@[simp] theorem takeError_codeLengths (e : ErrorKind) (s : State) : (takeError e s).codeLengths = s.codeLengths := rfl
@[simp] theorem takeError_clIndex (e : ErrorKind) (s : State) : (takeError e s).clIndex = s.clIndex := rfl
@[simp] theorem takeError_symbol (e : ErrorKind) (s : State) : (takeError e s).symbol = s.symbol := rfl
@[simp] theorem takeError_length (e : ErrorKind) (s : State) : (takeError e s).length = s.length := rfl
@[simp] theorem takeError_distSymbol (e : ErrorKind) (s : State) : (takeError e s).distSymbol = s.distSymbol := rfl
@[simp] theorem takeError_distance (e : ErrorKind) (s : State) : (takeError e s).distance = s.distance := rfl
@[simp] theorem takeError_adlerLo (e : ErrorKind) (s : State) : (takeError e s).adlerLo = s.adlerLo := rfl
@[simp] theorem takeError_adlerHi (e : ErrorKind) (s : State) : (takeError e s).adlerHi = s.adlerHi := rfl
@[simp] theorem takeError_adlerChunk (e : ErrorKind) (s : State) : (takeError e s).adlerChunk = s.adlerChunk := rfl
@[simp] theorem takeError_inMem (e : ErrorKind) (s : State) : (takeError e s).inMem = s.inMem := rfl
@[simp] theorem takeError_outMem (e : ErrorKind) (s : State) : (takeError e s).outMem = s.outMem.forget := rfl
@[simp] theorem takeError_place (e : ErrorKind) (s : State) : (takeError e s).place = s.place := rfl
@[simp] theorem takeError_preSymbol (e : ErrorKind) (s : State) : (takeError e s).preSymbol = s.preSymbol := rfl
@[simp] theorem takeError_unitResult (e : ErrorKind) (s : State) : (takeError e s).unitResult = s.unitResult := rfl
@[simp] theorem takeError_unitError (e : ErrorKind) (s : State) : (takeError e s).unitError = s.unitError := rfl
@[simp] theorem takeError_freeCount (e : ErrorKind) (s : State) : (takeError e s).freeCount = s.freeCount := rfl
@[simp] theorem takeError_hostData (e : ErrorKind) (s : State) : (takeError e s).hostData = s.hostData := rfl
@[simp] theorem takeError_inputs (e : ErrorKind) (s : State) : (takeError e s).inputs = s.inputs := rfl

@[simp] theorem putOut_errorCode (v : Byte) (s : State) : (putOut v s).errorCode = s.errorCode := rfl
@[simp] theorem putOut_inSize (v : Byte) (s : State) : (putOut v s).inSize = s.inSize := rfl
@[simp] theorem putOut_outCapacity (v : Byte) (s : State) : (putOut v s).outCapacity = s.outCapacity := rfl
@[simp] theorem putOut_outCount (v : Byte) (s : State) : (putOut v s).outCount = s.outCount := rfl
@[simp] theorem putOut_byteStreamSize (v : Byte) (s : State) : (putOut v s).byteStreamSize = s.byteStreamSize := rfl
@[simp] theorem putOut_byteStreamOffset (v : Byte) (s : State) : (putOut v s).byteStreamOffset = s.byteStreamOffset := rfl
@[simp] theorem putOut_bitBuffer (v : Byte) (s : State) : (putOut v s).bitBuffer = s.bitBuffer := rfl
@[simp] theorem putOut_bitBufferSize (v : Byte) (s : State) : (putOut v s).bitBufferSize = s.bitBufferSize := rfl
@[simp] theorem putOut_preTree (v : Byte) (s : State) : (putOut v s).preTree = s.preTree := rfl
@[simp] theorem putOut_dynLitTree (v : Byte) (s : State) : (putOut v s).dynLitTree = s.dynLitTree := rfl
@[simp] theorem putOut_dynDistTree (v : Byte) (s : State) : (putOut v s).dynDistTree = s.dynDistTree := rfl
@[simp] theorem putOut_seqState (v : Byte) (s : State) : (putOut v s).seqState = s.seqState := rfl
@[simp] theorem putOut_lastBlockFlag (v : Byte) (s : State) : (putOut v s).lastBlockFlag = s.lastBlockFlag := rfl
@[simp] theorem putOut_blockType (v : Byte) (s : State) : (putOut v s).blockType = s.blockType := rfl
@[simp] theorem putOut_outOffset (v : Byte) (s : State) : (putOut v s).outOffset = s.outOffset + 1 := rfl
@[simp] theorem putOut_storedLen (v : Byte) (s : State) : (putOut v s).storedLen = s.storedLen := rfl
@[simp] theorem putOut_storedNlen (v : Byte) (s : State) : (putOut v s).storedNlen = s.storedNlen := rfl
@[simp] theorem putOut_numLiteralCodes (v : Byte) (s : State) : (putOut v s).numLiteralCodes = s.numLiteralCodes := rfl
@[simp] theorem putOut_numDistanceCodes (v : Byte) (s : State) : (putOut v s).numDistanceCodes = s.numDistanceCodes := rfl
@[simp] theorem putOut_numCodeLengthCodes (v : Byte) (s : State) : (putOut v s).numCodeLengthCodes = s.numCodeLengthCodes := rfl
@[simp] theorem putOut_preLengths (v : Byte) (s : State) : (putOut v s).preLengths = s.preLengths := rfl
@[simp] theorem putOut_codeLengths (v : Byte) (s : State) : (putOut v s).codeLengths = s.codeLengths := rfl
@[simp] theorem putOut_clIndex (v : Byte) (s : State) : (putOut v s).clIndex = s.clIndex := rfl
@[simp] theorem putOut_symbol (v : Byte) (s : State) : (putOut v s).symbol = s.symbol := rfl
@[simp] theorem putOut_length (v : Byte) (s : State) : (putOut v s).length = s.length := rfl
@[simp] theorem putOut_distSymbol (v : Byte) (s : State) : (putOut v s).distSymbol = s.distSymbol := rfl
@[simp] theorem putOut_distance (v : Byte) (s : State) : (putOut v s).distance = s.distance := rfl
@[simp] theorem putOut_adlerLo (v : Byte) (s : State) : (putOut v s).adlerLo = s.adlerLo := rfl
@[simp] theorem putOut_adlerHi (v : Byte) (s : State) : (putOut v s).adlerHi = s.adlerHi := rfl
@[simp] theorem putOut_adlerChunk (v : Byte) (s : State) : (putOut v s).adlerChunk = s.adlerChunk := rfl
@[simp] theorem putOut_inMem (v : Byte) (s : State) : (putOut v s).inMem = s.inMem := rfl
@[simp] theorem putOut_outMem (v : Byte) (s : State) : (putOut v s).outMem = s.outMem.write s.outOffset.toNat v := rfl
@[simp] theorem putOut_place (v : Byte) (s : State) : (putOut v s).place = s.place := rfl
@[simp] theorem putOut_preSymbol (v : Byte) (s : State) : (putOut v s).preSymbol = s.preSymbol := rfl
@[simp] theorem putOut_unitResult (v : Byte) (s : State) : (putOut v s).unitResult = s.unitResult := rfl
@[simp] theorem putOut_unitError (v : Byte) (s : State) : (putOut v s).unitError = s.unitError := rfl
@[simp] theorem putOut_freeCount (v : Byte) (s : State) : (putOut v s).freeCount = s.freeCount := rfl
@[simp] theorem putOut_hostData (v : Byte) (s : State) : (putOut v s).hostData = s.hostData := rfl
@[simp] theorem putOut_inputs (v : Byte) (s : State) : (putOut v s).inputs = s.inputs := rfl

@[simp] theorem brInit_errorCode (off : Word) (s : State) : (brInit off s).errorCode = s.errorCode := rfl
@[simp] theorem brInit_inSize (off : Word) (s : State) : (brInit off s).inSize = s.inSize := rfl
@[simp] theorem brInit_outCapacity (off : Word) (s : State) : (brInit off s).outCapacity = s.outCapacity := rfl
@[simp] theorem brInit_outCount (off : Word) (s : State) : (brInit off s).outCount = s.outCount := rfl
@[simp] theorem brInit_byteStreamSize (off : Word) (s : State) : (brInit off s).byteStreamSize = s.inSize := rfl
@[simp] theorem brInit_byteStreamOffset (off : Word) (s : State) : (brInit off s).byteStreamOffset = off := rfl
@[simp] theorem brInit_bitBuffer (off : Word) (s : State) : (brInit off s).bitBuffer = 0 := rfl
@[simp] theorem brInit_bitBufferSize (off : Word) (s : State) : (brInit off s).bitBufferSize = 0 := rfl
@[simp] theorem brInit_preTree (off : Word) (s : State) : (brInit off s).preTree = s.preTree := rfl
@[simp] theorem brInit_dynLitTree (off : Word) (s : State) : (brInit off s).dynLitTree = s.dynLitTree := rfl
@[simp] theorem brInit_dynDistTree (off : Word) (s : State) : (brInit off s).dynDistTree = s.dynDistTree := rfl
@[simp] theorem brInit_seqState (off : Word) (s : State) : (brInit off s).seqState = s.seqState := rfl
@[simp] theorem brInit_lastBlockFlag (off : Word) (s : State) : (brInit off s).lastBlockFlag = s.lastBlockFlag := rfl
@[simp] theorem brInit_blockType (off : Word) (s : State) : (brInit off s).blockType = s.blockType := rfl
@[simp] theorem brInit_outOffset (off : Word) (s : State) : (brInit off s).outOffset = s.outOffset := rfl
@[simp] theorem brInit_storedLen (off : Word) (s : State) : (brInit off s).storedLen = s.storedLen := rfl
@[simp] theorem brInit_storedNlen (off : Word) (s : State) : (brInit off s).storedNlen = s.storedNlen := rfl
@[simp] theorem brInit_numLiteralCodes (off : Word) (s : State) : (brInit off s).numLiteralCodes = s.numLiteralCodes := rfl
@[simp] theorem brInit_numDistanceCodes (off : Word) (s : State) : (brInit off s).numDistanceCodes = s.numDistanceCodes := rfl
@[simp] theorem brInit_numCodeLengthCodes (off : Word) (s : State) : (brInit off s).numCodeLengthCodes = s.numCodeLengthCodes := rfl
@[simp] theorem brInit_preLengths (off : Word) (s : State) : (brInit off s).preLengths = s.preLengths := rfl
@[simp] theorem brInit_codeLengths (off : Word) (s : State) : (brInit off s).codeLengths = s.codeLengths := rfl
@[simp] theorem brInit_clIndex (off : Word) (s : State) : (brInit off s).clIndex = s.clIndex := rfl
@[simp] theorem brInit_symbol (off : Word) (s : State) : (brInit off s).symbol = s.symbol := rfl
@[simp] theorem brInit_length (off : Word) (s : State) : (brInit off s).length = s.length := rfl
@[simp] theorem brInit_distSymbol (off : Word) (s : State) : (brInit off s).distSymbol = s.distSymbol := rfl
@[simp] theorem brInit_distance (off : Word) (s : State) : (brInit off s).distance = s.distance := rfl
@[simp] theorem brInit_adlerLo (off : Word) (s : State) : (brInit off s).adlerLo = s.adlerLo := rfl
@[simp] theorem brInit_adlerHi (off : Word) (s : State) : (brInit off s).adlerHi = s.adlerHi := rfl
@[simp] theorem brInit_adlerChunk (off : Word) (s : State) : (brInit off s).adlerChunk = s.adlerChunk := rfl
@[simp] theorem brInit_inMem (off : Word) (s : State) : (brInit off s).inMem = s.inMem := rfl
@[simp] theorem brInit_outMem (off : Word) (s : State) : (brInit off s).outMem = s.outMem := rfl
@[simp] theorem brInit_place (off : Word) (s : State) : (brInit off s).place = s.place := rfl
@[simp] theorem brInit_preSymbol (off : Word) (s : State) : (brInit off s).preSymbol = s.preSymbol := rfl
@[simp] theorem brInit_unitResult (off : Word) (s : State) : (brInit off s).unitResult = s.unitResult := rfl
@[simp] theorem brInit_unitError (off : Word) (s : State) : (brInit off s).unitError = s.unitError := rfl
@[simp] theorem brInit_freeCount (off : Word) (s : State) : (brInit off s).freeCount = s.freeCount := rfl
@[simp] theorem brInit_hostData (off : Word) (s : State) : (brInit off s).hostData = s.hostData := rfl
@[simp] theorem brInit_inputs (off : Word) (s : State) : (brInit off s).inputs = s.inputs := rfl

@[simp] theorem brLoadByte_errorCode (s : State) : (brLoadByte s).errorCode = s.errorCode := rfl
@[simp] theorem brLoadByte_inSize (s : State) : (brLoadByte s).inSize = s.inSize := rfl
@[simp] theorem brLoadByte_outCapacity (s : State) : (brLoadByte s).outCapacity = s.outCapacity := rfl
@[simp] theorem brLoadByte_outCount (s : State) : (brLoadByte s).outCount = s.outCount := rfl
@[simp] theorem brLoadByte_byteStreamSize (s : State) : (brLoadByte s).byteStreamSize = s.byteStreamSize := rfl
@[simp] theorem brLoadByte_byteStreamOffset (s : State) : (brLoadByte s).byteStreamOffset = s.byteStreamOffset + 1 := rfl
@[simp] theorem brLoadByte_bitBuffer (s : State) : (brLoadByte s).bitBuffer = s.bitBuffer ||| ((memReadIn s.byteStreamOffset.toNat s).setWidth 32 <<< s.bitBufferSize.toNat) := rfl
@[simp] theorem brLoadByte_bitBufferSize (s : State) : (brLoadByte s).bitBufferSize = s.bitBufferSize + 8 := rfl
@[simp] theorem brLoadByte_preTree (s : State) : (brLoadByte s).preTree = s.preTree := rfl
@[simp] theorem brLoadByte_dynLitTree (s : State) : (brLoadByte s).dynLitTree = s.dynLitTree := rfl
@[simp] theorem brLoadByte_dynDistTree (s : State) : (brLoadByte s).dynDistTree = s.dynDistTree := rfl
@[simp] theorem brLoadByte_seqState (s : State) : (brLoadByte s).seqState = s.seqState := rfl
@[simp] theorem brLoadByte_lastBlockFlag (s : State) : (brLoadByte s).lastBlockFlag = s.lastBlockFlag := rfl
@[simp] theorem brLoadByte_blockType (s : State) : (brLoadByte s).blockType = s.blockType := rfl
@[simp] theorem brLoadByte_outOffset (s : State) : (brLoadByte s).outOffset = s.outOffset := rfl
@[simp] theorem brLoadByte_storedLen (s : State) : (brLoadByte s).storedLen = s.storedLen := rfl
@[simp] theorem brLoadByte_storedNlen (s : State) : (brLoadByte s).storedNlen = s.storedNlen := rfl
@[simp] theorem brLoadByte_numLiteralCodes (s : State) : (brLoadByte s).numLiteralCodes = s.numLiteralCodes := rfl
@[simp] theorem brLoadByte_numDistanceCodes (s : State) : (brLoadByte s).numDistanceCodes = s.numDistanceCodes := rfl
@[simp] theorem brLoadByte_numCodeLengthCodes (s : State) : (brLoadByte s).numCodeLengthCodes = s.numCodeLengthCodes := rfl
@[simp] theorem brLoadByte_preLengths (s : State) : (brLoadByte s).preLengths = s.preLengths := rfl
@[simp] theorem brLoadByte_codeLengths (s : State) : (brLoadByte s).codeLengths = s.codeLengths := rfl
@[simp] theorem brLoadByte_clIndex (s : State) : (brLoadByte s).clIndex = s.clIndex := rfl
@[simp] theorem brLoadByte_symbol (s : State) : (brLoadByte s).symbol = s.symbol := rfl
@[simp] theorem brLoadByte_length (s : State) : (brLoadByte s).length = s.length := rfl
@[simp] theorem brLoadByte_distSymbol (s : State) : (brLoadByte s).distSymbol = s.distSymbol := rfl
@[simp] theorem brLoadByte_distance (s : State) : (brLoadByte s).distance = s.distance := rfl
@[simp] theorem brLoadByte_adlerLo (s : State) : (brLoadByte s).adlerLo = s.adlerLo := rfl
@[simp] theorem brLoadByte_adlerHi (s : State) : (brLoadByte s).adlerHi = s.adlerHi := rfl
@[simp] theorem brLoadByte_adlerChunk (s : State) : (brLoadByte s).adlerChunk = s.adlerChunk := rfl
@[simp] theorem brLoadByte_inMem (s : State) : (brLoadByte s).inMem = s.inMem := rfl
@[simp] theorem brLoadByte_outMem (s : State) : (brLoadByte s).outMem = s.outMem := rfl
@[simp] theorem brLoadByte_place (s : State) : (brLoadByte s).place = s.place := rfl
@[simp] theorem brLoadByte_preSymbol (s : State) : (brLoadByte s).preSymbol = s.preSymbol := rfl
@[simp] theorem brLoadByte_unitResult (s : State) : (brLoadByte s).unitResult = s.unitResult := rfl
@[simp] theorem brLoadByte_unitError (s : State) : (brLoadByte s).unitError = s.unitError := rfl
@[simp] theorem brLoadByte_freeCount (s : State) : (brLoadByte s).freeCount = s.freeCount := rfl
@[simp] theorem brLoadByte_hostData (s : State) : (brLoadByte s).hostData = s.hostData := rfl
@[simp] theorem brLoadByte_inputs (s : State) : (brLoadByte s).inputs = s.inputs := rfl

@[simp] theorem brTake_errorCode (n : Nat) (s : State) : (brTake n s).errorCode = s.errorCode := rfl
@[simp] theorem brTake_inSize (n : Nat) (s : State) : (brTake n s).inSize = s.inSize := rfl
@[simp] theorem brTake_outCapacity (n : Nat) (s : State) : (brTake n s).outCapacity = s.outCapacity := rfl
@[simp] theorem brTake_outCount (n : Nat) (s : State) : (brTake n s).outCount = s.outCount := rfl
@[simp] theorem brTake_byteStreamSize (n : Nat) (s : State) : (brTake n s).byteStreamSize = s.byteStreamSize := rfl
@[simp] theorem brTake_byteStreamOffset (n : Nat) (s : State) : (brTake n s).byteStreamOffset = s.byteStreamOffset := rfl
@[simp] theorem brTake_bitBuffer (n : Nat) (s : State) : (brTake n s).bitBuffer = s.bitBuffer >>> n := rfl
@[simp] theorem brTake_bitBufferSize (n : Nat) (s : State) : (brTake n s).bitBufferSize = s.bitBufferSize - BitVec.ofNat 6 n := rfl
@[simp] theorem brTake_preTree (n : Nat) (s : State) : (brTake n s).preTree = s.preTree := rfl
@[simp] theorem brTake_dynLitTree (n : Nat) (s : State) : (brTake n s).dynLitTree = s.dynLitTree := rfl
@[simp] theorem brTake_dynDistTree (n : Nat) (s : State) : (brTake n s).dynDistTree = s.dynDistTree := rfl
@[simp] theorem brTake_seqState (n : Nat) (s : State) : (brTake n s).seqState = s.seqState := rfl
@[simp] theorem brTake_lastBlockFlag (n : Nat) (s : State) : (brTake n s).lastBlockFlag = s.lastBlockFlag := rfl
@[simp] theorem brTake_blockType (n : Nat) (s : State) : (brTake n s).blockType = s.blockType := rfl
@[simp] theorem brTake_outOffset (n : Nat) (s : State) : (brTake n s).outOffset = s.outOffset := rfl
@[simp] theorem brTake_storedLen (n : Nat) (s : State) : (brTake n s).storedLen = s.storedLen := rfl
@[simp] theorem brTake_storedNlen (n : Nat) (s : State) : (brTake n s).storedNlen = s.storedNlen := rfl
@[simp] theorem brTake_numLiteralCodes (n : Nat) (s : State) : (brTake n s).numLiteralCodes = s.numLiteralCodes := rfl
@[simp] theorem brTake_numDistanceCodes (n : Nat) (s : State) : (brTake n s).numDistanceCodes = s.numDistanceCodes := rfl
@[simp] theorem brTake_numCodeLengthCodes (n : Nat) (s : State) : (brTake n s).numCodeLengthCodes = s.numCodeLengthCodes := rfl
@[simp] theorem brTake_preLengths (n : Nat) (s : State) : (brTake n s).preLengths = s.preLengths := rfl
@[simp] theorem brTake_codeLengths (n : Nat) (s : State) : (brTake n s).codeLengths = s.codeLengths := rfl
@[simp] theorem brTake_clIndex (n : Nat) (s : State) : (brTake n s).clIndex = s.clIndex := rfl
@[simp] theorem brTake_symbol (n : Nat) (s : State) : (brTake n s).symbol = s.symbol := rfl
@[simp] theorem brTake_length (n : Nat) (s : State) : (brTake n s).length = s.length := rfl
@[simp] theorem brTake_distSymbol (n : Nat) (s : State) : (brTake n s).distSymbol = s.distSymbol := rfl
@[simp] theorem brTake_distance (n : Nat) (s : State) : (brTake n s).distance = s.distance := rfl
@[simp] theorem brTake_adlerLo (n : Nat) (s : State) : (brTake n s).adlerLo = s.adlerLo := rfl
@[simp] theorem brTake_adlerHi (n : Nat) (s : State) : (brTake n s).adlerHi = s.adlerHi := rfl
@[simp] theorem brTake_adlerChunk (n : Nat) (s : State) : (brTake n s).adlerChunk = s.adlerChunk := rfl
@[simp] theorem brTake_inMem (n : Nat) (s : State) : (brTake n s).inMem = s.inMem := rfl
@[simp] theorem brTake_outMem (n : Nat) (s : State) : (brTake n s).outMem = s.outMem := rfl
@[simp] theorem brTake_place (n : Nat) (s : State) : (brTake n s).place = s.place := rfl
@[simp] theorem brTake_preSymbol (n : Nat) (s : State) : (brTake n s).preSymbol = s.preSymbol := rfl
@[simp] theorem brTake_unitResult (n : Nat) (s : State) : (brTake n s).unitResult = s.unitResult := rfl
@[simp] theorem brTake_unitError (n : Nat) (s : State) : (brTake n s).unitError = s.unitError := rfl
@[simp] theorem brTake_freeCount (n : Nat) (s : State) : (brTake n s).freeCount = s.freeCount := rfl
@[simp] theorem brTake_hostData (n : Nat) (s : State) : (brTake n s).hostData = s.hostData := rfl
@[simp] theorem brTake_inputs (n : Nat) (s : State) : (brTake n s).inputs = s.inputs := rfl

@[simp] theorem setBlockFlags_errorCode (last : Bool) (type : BitVec 2) (s : State) : (setBlockFlags last type s).errorCode = s.errorCode := rfl
@[simp] theorem setBlockFlags_inSize (last : Bool) (type : BitVec 2) (s : State) : (setBlockFlags last type s).inSize = s.inSize := rfl
@[simp] theorem setBlockFlags_outCapacity (last : Bool) (type : BitVec 2) (s : State) : (setBlockFlags last type s).outCapacity = s.outCapacity := rfl
@[simp] theorem setBlockFlags_outCount (last : Bool) (type : BitVec 2) (s : State) : (setBlockFlags last type s).outCount = s.outCount := rfl
@[simp] theorem setBlockFlags_byteStreamSize (last : Bool) (type : BitVec 2) (s : State) : (setBlockFlags last type s).byteStreamSize = s.byteStreamSize := rfl
@[simp] theorem setBlockFlags_byteStreamOffset (last : Bool) (type : BitVec 2) (s : State) : (setBlockFlags last type s).byteStreamOffset = s.byteStreamOffset := rfl
@[simp] theorem setBlockFlags_bitBuffer (last : Bool) (type : BitVec 2) (s : State) : (setBlockFlags last type s).bitBuffer = s.bitBuffer := rfl
@[simp] theorem setBlockFlags_bitBufferSize (last : Bool) (type : BitVec 2) (s : State) : (setBlockFlags last type s).bitBufferSize = s.bitBufferSize := rfl
@[simp] theorem setBlockFlags_preTree (last : Bool) (type : BitVec 2) (s : State) : (setBlockFlags last type s).preTree = s.preTree := rfl
@[simp] theorem setBlockFlags_dynLitTree (last : Bool) (type : BitVec 2) (s : State) : (setBlockFlags last type s).dynLitTree = s.dynLitTree := rfl
@[simp] theorem setBlockFlags_dynDistTree (last : Bool) (type : BitVec 2) (s : State) : (setBlockFlags last type s).dynDistTree = s.dynDistTree := rfl
@[simp] theorem setBlockFlags_seqState (last : Bool) (type : BitVec 2) (s : State) : (setBlockFlags last type s).seqState = s.seqState := rfl
@[simp] theorem setBlockFlags_lastBlockFlag (last : Bool) (type : BitVec 2) (s : State) : (setBlockFlags last type s).lastBlockFlag = last := rfl
@[simp] theorem setBlockFlags_blockType (last : Bool) (type : BitVec 2) (s : State) : (setBlockFlags last type s).blockType = type := rfl
@[simp] theorem setBlockFlags_outOffset (last : Bool) (type : BitVec 2) (s : State) : (setBlockFlags last type s).outOffset = s.outOffset := rfl
@[simp] theorem setBlockFlags_storedLen (last : Bool) (type : BitVec 2) (s : State) : (setBlockFlags last type s).storedLen = s.storedLen := rfl
@[simp] theorem setBlockFlags_storedNlen (last : Bool) (type : BitVec 2) (s : State) : (setBlockFlags last type s).storedNlen = s.storedNlen := rfl
@[simp] theorem setBlockFlags_numLiteralCodes (last : Bool) (type : BitVec 2) (s : State) : (setBlockFlags last type s).numLiteralCodes = s.numLiteralCodes := rfl
@[simp] theorem setBlockFlags_numDistanceCodes (last : Bool) (type : BitVec 2) (s : State) : (setBlockFlags last type s).numDistanceCodes = s.numDistanceCodes := rfl
@[simp] theorem setBlockFlags_numCodeLengthCodes (last : Bool) (type : BitVec 2) (s : State) : (setBlockFlags last type s).numCodeLengthCodes = s.numCodeLengthCodes := rfl
@[simp] theorem setBlockFlags_preLengths (last : Bool) (type : BitVec 2) (s : State) : (setBlockFlags last type s).preLengths = s.preLengths := rfl
@[simp] theorem setBlockFlags_codeLengths (last : Bool) (type : BitVec 2) (s : State) : (setBlockFlags last type s).codeLengths = s.codeLengths := rfl
@[simp] theorem setBlockFlags_clIndex (last : Bool) (type : BitVec 2) (s : State) : (setBlockFlags last type s).clIndex = s.clIndex := rfl
@[simp] theorem setBlockFlags_symbol (last : Bool) (type : BitVec 2) (s : State) : (setBlockFlags last type s).symbol = s.symbol := rfl
@[simp] theorem setBlockFlags_length (last : Bool) (type : BitVec 2) (s : State) : (setBlockFlags last type s).length = s.length := rfl
@[simp] theorem setBlockFlags_distSymbol (last : Bool) (type : BitVec 2) (s : State) : (setBlockFlags last type s).distSymbol = s.distSymbol := rfl
@[simp] theorem setBlockFlags_distance (last : Bool) (type : BitVec 2) (s : State) : (setBlockFlags last type s).distance = s.distance := rfl
@[simp] theorem setBlockFlags_adlerLo (last : Bool) (type : BitVec 2) (s : State) : (setBlockFlags last type s).adlerLo = s.adlerLo := rfl
@[simp] theorem setBlockFlags_adlerHi (last : Bool) (type : BitVec 2) (s : State) : (setBlockFlags last type s).adlerHi = s.adlerHi := rfl
@[simp] theorem setBlockFlags_adlerChunk (last : Bool) (type : BitVec 2) (s : State) : (setBlockFlags last type s).adlerChunk = s.adlerChunk := rfl
@[simp] theorem setBlockFlags_inMem (last : Bool) (type : BitVec 2) (s : State) : (setBlockFlags last type s).inMem = s.inMem := rfl
@[simp] theorem setBlockFlags_outMem (last : Bool) (type : BitVec 2) (s : State) : (setBlockFlags last type s).outMem = s.outMem := rfl
@[simp] theorem setBlockFlags_place (last : Bool) (type : BitVec 2) (s : State) : (setBlockFlags last type s).place = s.place := rfl
@[simp] theorem setBlockFlags_preSymbol (last : Bool) (type : BitVec 2) (s : State) : (setBlockFlags last type s).preSymbol = s.preSymbol := rfl
@[simp] theorem setBlockFlags_unitResult (last : Bool) (type : BitVec 2) (s : State) : (setBlockFlags last type s).unitResult = s.unitResult := rfl
@[simp] theorem setBlockFlags_unitError (last : Bool) (type : BitVec 2) (s : State) : (setBlockFlags last type s).unitError = s.unitError := rfl
@[simp] theorem setBlockFlags_freeCount (last : Bool) (type : BitVec 2) (s : State) : (setBlockFlags last type s).freeCount = s.freeCount := rfl
@[simp] theorem setBlockFlags_hostData (last : Bool) (type : BitVec 2) (s : State) : (setBlockFlags last type s).hostData = s.hostData := rfl
@[simp] theorem setBlockFlags_inputs (last : Bool) (type : BitVec 2) (s : State) : (setBlockFlags last type s).inputs = s.inputs := rfl

@[simp] theorem discardTrees_errorCode (s : State) : (discardTrees s).errorCode = s.errorCode := rfl
@[simp] theorem discardTrees_inSize (s : State) : (discardTrees s).inSize = s.inSize := rfl
@[simp] theorem discardTrees_outCapacity (s : State) : (discardTrees s).outCapacity = s.outCapacity := rfl
@[simp] theorem discardTrees_outCount (s : State) : (discardTrees s).outCount = s.outCount := rfl
@[simp] theorem discardTrees_byteStreamSize (s : State) : (discardTrees s).byteStreamSize = s.byteStreamSize := rfl
@[simp] theorem discardTrees_byteStreamOffset (s : State) : (discardTrees s).byteStreamOffset = s.byteStreamOffset := rfl
@[simp] theorem discardTrees_bitBuffer (s : State) : (discardTrees s).bitBuffer = s.bitBuffer := rfl
@[simp] theorem discardTrees_bitBufferSize (s : State) : (discardTrees s).bitBufferSize = s.bitBufferSize := rfl
@[simp] theorem discardTrees_preTree (s : State) : (discardTrees s).preTree = { s.preTree with built := false } := rfl
@[simp] theorem discardTrees_dynLitTree (s : State) : (discardTrees s).dynLitTree = { s.dynLitTree with built := false } := rfl
@[simp] theorem discardTrees_dynDistTree (s : State) : (discardTrees s).dynDistTree = { s.dynDistTree with built := false } := rfl
@[simp] theorem discardTrees_seqState (s : State) : (discardTrees s).seqState = s.seqState := rfl
@[simp] theorem discardTrees_lastBlockFlag (s : State) : (discardTrees s).lastBlockFlag = s.lastBlockFlag := rfl
@[simp] theorem discardTrees_blockType (s : State) : (discardTrees s).blockType = s.blockType := rfl
@[simp] theorem discardTrees_outOffset (s : State) : (discardTrees s).outOffset = s.outOffset := rfl
@[simp] theorem discardTrees_storedLen (s : State) : (discardTrees s).storedLen = s.storedLen := rfl
@[simp] theorem discardTrees_storedNlen (s : State) : (discardTrees s).storedNlen = s.storedNlen := rfl
@[simp] theorem discardTrees_numLiteralCodes (s : State) : (discardTrees s).numLiteralCodes = s.numLiteralCodes := rfl
@[simp] theorem discardTrees_numDistanceCodes (s : State) : (discardTrees s).numDistanceCodes = s.numDistanceCodes := rfl
@[simp] theorem discardTrees_numCodeLengthCodes (s : State) : (discardTrees s).numCodeLengthCodes = s.numCodeLengthCodes := rfl
@[simp] theorem discardTrees_preLengths (s : State) : (discardTrees s).preLengths = s.preLengths := rfl
@[simp] theorem discardTrees_codeLengths (s : State) : (discardTrees s).codeLengths = s.codeLengths := rfl
@[simp] theorem discardTrees_clIndex (s : State) : (discardTrees s).clIndex = s.clIndex := rfl
@[simp] theorem discardTrees_symbol (s : State) : (discardTrees s).symbol = s.symbol := rfl
@[simp] theorem discardTrees_length (s : State) : (discardTrees s).length = s.length := rfl
@[simp] theorem discardTrees_distSymbol (s : State) : (discardTrees s).distSymbol = s.distSymbol := rfl
@[simp] theorem discardTrees_distance (s : State) : (discardTrees s).distance = s.distance := rfl
@[simp] theorem discardTrees_adlerLo (s : State) : (discardTrees s).adlerLo = s.adlerLo := rfl
@[simp] theorem discardTrees_adlerHi (s : State) : (discardTrees s).adlerHi = s.adlerHi := rfl
@[simp] theorem discardTrees_adlerChunk (s : State) : (discardTrees s).adlerChunk = s.adlerChunk := rfl
@[simp] theorem discardTrees_inMem (s : State) : (discardTrees s).inMem = s.inMem := rfl
@[simp] theorem discardTrees_outMem (s : State) : (discardTrees s).outMem = s.outMem := rfl
@[simp] theorem discardTrees_place (s : State) : (discardTrees s).place = s.place := rfl
@[simp] theorem discardTrees_preSymbol (s : State) : (discardTrees s).preSymbol = s.preSymbol := rfl
@[simp] theorem discardTrees_unitResult (s : State) : (discardTrees s).unitResult = s.unitResult := rfl
@[simp] theorem discardTrees_unitError (s : State) : (discardTrees s).unitError = s.unitError := rfl
@[simp] theorem discardTrees_freeCount (s : State) : (discardTrees s).freeCount = s.freeCount := rfl
@[simp] theorem discardTrees_hostData (s : State) : (discardTrees s).hostData = s.hostData := rfl
@[simp] theorem discardTrees_inputs (s : State) : (discardTrees s).inputs = s.inputs := rfl

@[simp] theorem goto_errorCode (p : Place) (s : State) : (goto p s).errorCode = s.errorCode := rfl
@[simp] theorem goto_inSize (p : Place) (s : State) : (goto p s).inSize = s.inSize := rfl
@[simp] theorem goto_outCapacity (p : Place) (s : State) : (goto p s).outCapacity = s.outCapacity := rfl
@[simp] theorem goto_outCount (p : Place) (s : State) : (goto p s).outCount = s.outCount := rfl
@[simp] theorem goto_byteStreamSize (p : Place) (s : State) : (goto p s).byteStreamSize = s.byteStreamSize := rfl
@[simp] theorem goto_byteStreamOffset (p : Place) (s : State) : (goto p s).byteStreamOffset = s.byteStreamOffset := rfl
@[simp] theorem goto_bitBuffer (p : Place) (s : State) : (goto p s).bitBuffer = s.bitBuffer := rfl
@[simp] theorem goto_bitBufferSize (p : Place) (s : State) : (goto p s).bitBufferSize = s.bitBufferSize := rfl
@[simp] theorem goto_preTree (p : Place) (s : State) : (goto p s).preTree = s.preTree := rfl
@[simp] theorem goto_dynLitTree (p : Place) (s : State) : (goto p s).dynLitTree = s.dynLitTree := rfl
@[simp] theorem goto_dynDistTree (p : Place) (s : State) : (goto p s).dynDistTree = s.dynDistTree := rfl
@[simp] theorem goto_seqState (p : Place) (s : State) : (goto p s).seqState = s.seqState := rfl
@[simp] theorem goto_lastBlockFlag (p : Place) (s : State) : (goto p s).lastBlockFlag = s.lastBlockFlag := rfl
@[simp] theorem goto_blockType (p : Place) (s : State) : (goto p s).blockType = s.blockType := rfl
@[simp] theorem goto_outOffset (p : Place) (s : State) : (goto p s).outOffset = s.outOffset := rfl
@[simp] theorem goto_storedLen (p : Place) (s : State) : (goto p s).storedLen = s.storedLen := rfl
@[simp] theorem goto_storedNlen (p : Place) (s : State) : (goto p s).storedNlen = s.storedNlen := rfl
@[simp] theorem goto_numLiteralCodes (p : Place) (s : State) : (goto p s).numLiteralCodes = s.numLiteralCodes := rfl
@[simp] theorem goto_numDistanceCodes (p : Place) (s : State) : (goto p s).numDistanceCodes = s.numDistanceCodes := rfl
@[simp] theorem goto_numCodeLengthCodes (p : Place) (s : State) : (goto p s).numCodeLengthCodes = s.numCodeLengthCodes := rfl
@[simp] theorem goto_preLengths (p : Place) (s : State) : (goto p s).preLengths = s.preLengths := rfl
@[simp] theorem goto_codeLengths (p : Place) (s : State) : (goto p s).codeLengths = s.codeLengths := rfl
@[simp] theorem goto_clIndex (p : Place) (s : State) : (goto p s).clIndex = s.clIndex := rfl
@[simp] theorem goto_symbol (p : Place) (s : State) : (goto p s).symbol = s.symbol := rfl
@[simp] theorem goto_length (p : Place) (s : State) : (goto p s).length = s.length := rfl
@[simp] theorem goto_distSymbol (p : Place) (s : State) : (goto p s).distSymbol = s.distSymbol := rfl
@[simp] theorem goto_distance (p : Place) (s : State) : (goto p s).distance = s.distance := rfl
@[simp] theorem goto_adlerLo (p : Place) (s : State) : (goto p s).adlerLo = s.adlerLo := rfl
@[simp] theorem goto_adlerHi (p : Place) (s : State) : (goto p s).adlerHi = s.adlerHi := rfl
@[simp] theorem goto_adlerChunk (p : Place) (s : State) : (goto p s).adlerChunk = s.adlerChunk := rfl
@[simp] theorem goto_inMem (p : Place) (s : State) : (goto p s).inMem = s.inMem := rfl
@[simp] theorem goto_outMem (p : Place) (s : State) : (goto p s).outMem = s.outMem := rfl
@[simp] theorem goto_place (p : Place) (s : State) : (goto p s).place = p := rfl
@[simp] theorem goto_preSymbol (p : Place) (s : State) : (goto p s).preSymbol = s.preSymbol := rfl
@[simp] theorem goto_unitResult (p : Place) (s : State) : (goto p s).unitResult = s.unitResult := rfl
@[simp] theorem goto_unitError (p : Place) (s : State) : (goto p s).unitError = s.unitError := rfl
@[simp] theorem goto_freeCount (p : Place) (s : State) : (goto p s).freeCount = s.freeCount := rfl
@[simp] theorem goto_hostData (p : Place) (s : State) : (goto p s).hostData = s.hostData := rfl
@[simp] theorem goto_inputs (p : Place) (s : State) : (goto p s).inputs = s.inputs := rfl

@[simp] theorem setResult_errorCode (v : Nat) (s : State) : (setResult v s).errorCode = s.errorCode := rfl
@[simp] theorem setResult_inSize (v : Nat) (s : State) : (setResult v s).inSize = s.inSize := rfl
@[simp] theorem setResult_outCapacity (v : Nat) (s : State) : (setResult v s).outCapacity = s.outCapacity := rfl
@[simp] theorem setResult_outCount (v : Nat) (s : State) : (setResult v s).outCount = s.outCount := rfl
@[simp] theorem setResult_byteStreamSize (v : Nat) (s : State) : (setResult v s).byteStreamSize = s.byteStreamSize := rfl
@[simp] theorem setResult_byteStreamOffset (v : Nat) (s : State) : (setResult v s).byteStreamOffset = s.byteStreamOffset := rfl
@[simp] theorem setResult_bitBuffer (v : Nat) (s : State) : (setResult v s).bitBuffer = s.bitBuffer := rfl
@[simp] theorem setResult_bitBufferSize (v : Nat) (s : State) : (setResult v s).bitBufferSize = s.bitBufferSize := rfl
@[simp] theorem setResult_preTree (v : Nat) (s : State) : (setResult v s).preTree = s.preTree := rfl
@[simp] theorem setResult_dynLitTree (v : Nat) (s : State) : (setResult v s).dynLitTree = s.dynLitTree := rfl
@[simp] theorem setResult_dynDistTree (v : Nat) (s : State) : (setResult v s).dynDistTree = s.dynDistTree := rfl
@[simp] theorem setResult_seqState (v : Nat) (s : State) : (setResult v s).seqState = s.seqState := rfl
@[simp] theorem setResult_lastBlockFlag (v : Nat) (s : State) : (setResult v s).lastBlockFlag = s.lastBlockFlag := rfl
@[simp] theorem setResult_blockType (v : Nat) (s : State) : (setResult v s).blockType = s.blockType := rfl
@[simp] theorem setResult_outOffset (v : Nat) (s : State) : (setResult v s).outOffset = s.outOffset := rfl
@[simp] theorem setResult_storedLen (v : Nat) (s : State) : (setResult v s).storedLen = s.storedLen := rfl
@[simp] theorem setResult_storedNlen (v : Nat) (s : State) : (setResult v s).storedNlen = s.storedNlen := rfl
@[simp] theorem setResult_numLiteralCodes (v : Nat) (s : State) : (setResult v s).numLiteralCodes = s.numLiteralCodes := rfl
@[simp] theorem setResult_numDistanceCodes (v : Nat) (s : State) : (setResult v s).numDistanceCodes = s.numDistanceCodes := rfl
@[simp] theorem setResult_numCodeLengthCodes (v : Nat) (s : State) : (setResult v s).numCodeLengthCodes = s.numCodeLengthCodes := rfl
@[simp] theorem setResult_preLengths (v : Nat) (s : State) : (setResult v s).preLengths = s.preLengths := rfl
@[simp] theorem setResult_codeLengths (v : Nat) (s : State) : (setResult v s).codeLengths = s.codeLengths := rfl
@[simp] theorem setResult_clIndex (v : Nat) (s : State) : (setResult v s).clIndex = s.clIndex := rfl
@[simp] theorem setResult_symbol (v : Nat) (s : State) : (setResult v s).symbol = s.symbol := rfl
@[simp] theorem setResult_length (v : Nat) (s : State) : (setResult v s).length = s.length := rfl
@[simp] theorem setResult_distSymbol (v : Nat) (s : State) : (setResult v s).distSymbol = s.distSymbol := rfl
@[simp] theorem setResult_distance (v : Nat) (s : State) : (setResult v s).distance = s.distance := rfl
@[simp] theorem setResult_adlerLo (v : Nat) (s : State) : (setResult v s).adlerLo = s.adlerLo := rfl
@[simp] theorem setResult_adlerHi (v : Nat) (s : State) : (setResult v s).adlerHi = s.adlerHi := rfl
@[simp] theorem setResult_adlerChunk (v : Nat) (s : State) : (setResult v s).adlerChunk = s.adlerChunk := rfl
@[simp] theorem setResult_inMem (v : Nat) (s : State) : (setResult v s).inMem = s.inMem := rfl
@[simp] theorem setResult_outMem (v : Nat) (s : State) : (setResult v s).outMem = s.outMem := rfl
@[simp] theorem setResult_place (v : Nat) (s : State) : (setResult v s).place = s.place := rfl
@[simp] theorem setResult_preSymbol (v : Nat) (s : State) : (setResult v s).preSymbol = s.preSymbol := rfl
@[simp] theorem setResult_unitResult (v : Nat) (s : State) : (setResult v s).unitResult = v := rfl
@[simp] theorem setResult_unitError (v : Nat) (s : State) : (setResult v s).unitError = s.unitError := rfl
@[simp] theorem setResult_freeCount (v : Nat) (s : State) : (setResult v s).freeCount = s.freeCount := rfl
@[simp] theorem setResult_hostData (v : Nat) (s : State) : (setResult v s).hostData = s.hostData := rfl
@[simp] theorem setResult_inputs (v : Nat) (s : State) : (setResult v s).inputs = s.inputs := rfl

@[simp] theorem adlerInit_errorCode (initial : Word) (s : State) : (adlerInit initial s).errorCode = s.errorCode := rfl
@[simp] theorem adlerInit_inSize (initial : Word) (s : State) : (adlerInit initial s).inSize = s.inSize := rfl
@[simp] theorem adlerInit_outCapacity (initial : Word) (s : State) : (adlerInit initial s).outCapacity = s.outCapacity := rfl
@[simp] theorem adlerInit_outCount (initial : Word) (s : State) : (adlerInit initial s).outCount = s.outCount := rfl
@[simp] theorem adlerInit_byteStreamSize (initial : Word) (s : State) : (adlerInit initial s).byteStreamSize = s.byteStreamSize := rfl
@[simp] theorem adlerInit_byteStreamOffset (initial : Word) (s : State) : (adlerInit initial s).byteStreamOffset = s.byteStreamOffset := rfl
@[simp] theorem adlerInit_bitBuffer (initial : Word) (s : State) : (adlerInit initial s).bitBuffer = s.bitBuffer := rfl
@[simp] theorem adlerInit_bitBufferSize (initial : Word) (s : State) : (adlerInit initial s).bitBufferSize = s.bitBufferSize := rfl
@[simp] theorem adlerInit_preTree (initial : Word) (s : State) : (adlerInit initial s).preTree = s.preTree := rfl
@[simp] theorem adlerInit_dynLitTree (initial : Word) (s : State) : (adlerInit initial s).dynLitTree = s.dynLitTree := rfl
@[simp] theorem adlerInit_dynDistTree (initial : Word) (s : State) : (adlerInit initial s).dynDistTree = s.dynDistTree := rfl
@[simp] theorem adlerInit_seqState (initial : Word) (s : State) : (adlerInit initial s).seqState = s.seqState := rfl
@[simp] theorem adlerInit_lastBlockFlag (initial : Word) (s : State) : (adlerInit initial s).lastBlockFlag = s.lastBlockFlag := rfl
@[simp] theorem adlerInit_blockType (initial : Word) (s : State) : (adlerInit initial s).blockType = s.blockType := rfl
@[simp] theorem adlerInit_outOffset (initial : Word) (s : State) : (adlerInit initial s).outOffset = s.outOffset := rfl
@[simp] theorem adlerInit_storedLen (initial : Word) (s : State) : (adlerInit initial s).storedLen = s.storedLen := rfl
@[simp] theorem adlerInit_storedNlen (initial : Word) (s : State) : (adlerInit initial s).storedNlen = s.storedNlen := rfl
@[simp] theorem adlerInit_numLiteralCodes (initial : Word) (s : State) : (adlerInit initial s).numLiteralCodes = s.numLiteralCodes := rfl
@[simp] theorem adlerInit_numDistanceCodes (initial : Word) (s : State) : (adlerInit initial s).numDistanceCodes = s.numDistanceCodes := rfl
@[simp] theorem adlerInit_numCodeLengthCodes (initial : Word) (s : State) : (adlerInit initial s).numCodeLengthCodes = s.numCodeLengthCodes := rfl
@[simp] theorem adlerInit_preLengths (initial : Word) (s : State) : (adlerInit initial s).preLengths = s.preLengths := rfl
@[simp] theorem adlerInit_codeLengths (initial : Word) (s : State) : (adlerInit initial s).codeLengths = s.codeLengths := rfl
@[simp] theorem adlerInit_clIndex (initial : Word) (s : State) : (adlerInit initial s).clIndex = s.clIndex := rfl
@[simp] theorem adlerInit_symbol (initial : Word) (s : State) : (adlerInit initial s).symbol = s.symbol := rfl
@[simp] theorem adlerInit_length (initial : Word) (s : State) : (adlerInit initial s).length = s.length := rfl
@[simp] theorem adlerInit_distSymbol (initial : Word) (s : State) : (adlerInit initial s).distSymbol = s.distSymbol := rfl
@[simp] theorem adlerInit_distance (initial : Word) (s : State) : (adlerInit initial s).distance = s.distance := rfl
@[simp] theorem adlerInit_adlerLo (initial : Word) (s : State) : (adlerInit initial s).adlerLo = initial &&& 0xffff := rfl
@[simp] theorem adlerInit_adlerHi (initial : Word) (s : State) : (adlerInit initial s).adlerHi = initial >>> 16 := rfl
@[simp] theorem adlerInit_adlerChunk (initial : Word) (s : State) : (adlerInit initial s).adlerChunk = 0 := rfl
@[simp] theorem adlerInit_inMem (initial : Word) (s : State) : (adlerInit initial s).inMem = s.inMem := rfl
@[simp] theorem adlerInit_outMem (initial : Word) (s : State) : (adlerInit initial s).outMem = s.outMem := rfl
@[simp] theorem adlerInit_place (initial : Word) (s : State) : (adlerInit initial s).place = s.place := rfl
@[simp] theorem adlerInit_preSymbol (initial : Word) (s : State) : (adlerInit initial s).preSymbol = s.preSymbol := rfl
@[simp] theorem adlerInit_unitResult (initial : Word) (s : State) : (adlerInit initial s).unitResult = s.unitResult := rfl
@[simp] theorem adlerInit_unitError (initial : Word) (s : State) : (adlerInit initial s).unitError = s.unitError := rfl
@[simp] theorem adlerInit_freeCount (initial : Word) (s : State) : (adlerInit initial s).freeCount = s.freeCount := rfl
@[simp] theorem adlerInit_hostData (initial : Word) (s : State) : (adlerInit initial s).hostData = s.hostData := rfl
@[simp] theorem adlerInit_inputs (initial : Word) (s : State) : (adlerInit initial s).inputs = s.inputs := rfl

@[simp] theorem adlerReduce_errorCode (s : State) : (adlerReduce s).errorCode = s.errorCode := rfl
@[simp] theorem adlerReduce_inSize (s : State) : (adlerReduce s).inSize = s.inSize := rfl
@[simp] theorem adlerReduce_outCapacity (s : State) : (adlerReduce s).outCapacity = s.outCapacity := rfl
@[simp] theorem adlerReduce_outCount (s : State) : (adlerReduce s).outCount = s.outCount := rfl
@[simp] theorem adlerReduce_byteStreamSize (s : State) : (adlerReduce s).byteStreamSize = s.byteStreamSize := rfl
@[simp] theorem adlerReduce_byteStreamOffset (s : State) : (adlerReduce s).byteStreamOffset = s.byteStreamOffset := rfl
@[simp] theorem adlerReduce_bitBuffer (s : State) : (adlerReduce s).bitBuffer = s.bitBuffer := rfl
@[simp] theorem adlerReduce_bitBufferSize (s : State) : (adlerReduce s).bitBufferSize = s.bitBufferSize := rfl
@[simp] theorem adlerReduce_preTree (s : State) : (adlerReduce s).preTree = s.preTree := rfl
@[simp] theorem adlerReduce_dynLitTree (s : State) : (adlerReduce s).dynLitTree = s.dynLitTree := rfl
@[simp] theorem adlerReduce_dynDistTree (s : State) : (adlerReduce s).dynDistTree = s.dynDistTree := rfl
@[simp] theorem adlerReduce_seqState (s : State) : (adlerReduce s).seqState = s.seqState := rfl
@[simp] theorem adlerReduce_lastBlockFlag (s : State) : (adlerReduce s).lastBlockFlag = s.lastBlockFlag := rfl
@[simp] theorem adlerReduce_blockType (s : State) : (adlerReduce s).blockType = s.blockType := rfl
@[simp] theorem adlerReduce_outOffset (s : State) : (adlerReduce s).outOffset = s.outOffset := rfl
@[simp] theorem adlerReduce_storedLen (s : State) : (adlerReduce s).storedLen = s.storedLen := rfl
@[simp] theorem adlerReduce_storedNlen (s : State) : (adlerReduce s).storedNlen = s.storedNlen := rfl
@[simp] theorem adlerReduce_numLiteralCodes (s : State) : (adlerReduce s).numLiteralCodes = s.numLiteralCodes := rfl
@[simp] theorem adlerReduce_numDistanceCodes (s : State) : (adlerReduce s).numDistanceCodes = s.numDistanceCodes := rfl
@[simp] theorem adlerReduce_numCodeLengthCodes (s : State) : (adlerReduce s).numCodeLengthCodes = s.numCodeLengthCodes := rfl
@[simp] theorem adlerReduce_preLengths (s : State) : (adlerReduce s).preLengths = s.preLengths := rfl
@[simp] theorem adlerReduce_codeLengths (s : State) : (adlerReduce s).codeLengths = s.codeLengths := rfl
@[simp] theorem adlerReduce_clIndex (s : State) : (adlerReduce s).clIndex = s.clIndex := rfl
@[simp] theorem adlerReduce_symbol (s : State) : (adlerReduce s).symbol = s.symbol := rfl
@[simp] theorem adlerReduce_length (s : State) : (adlerReduce s).length = s.length := rfl
@[simp] theorem adlerReduce_distSymbol (s : State) : (adlerReduce s).distSymbol = s.distSymbol := rfl
@[simp] theorem adlerReduce_distance (s : State) : (adlerReduce s).distance = s.distance := rfl
@[simp] theorem adlerReduce_adlerLo (s : State) : (adlerReduce s).adlerLo = s.adlerLo % 65521 := rfl
@[simp] theorem adlerReduce_adlerHi (s : State) : (adlerReduce s).adlerHi = s.adlerHi % 65521 := rfl
@[simp] theorem adlerReduce_adlerChunk (s : State) : (adlerReduce s).adlerChunk = s.adlerChunk := rfl
@[simp] theorem adlerReduce_inMem (s : State) : (adlerReduce s).inMem = s.inMem := rfl
@[simp] theorem adlerReduce_outMem (s : State) : (adlerReduce s).outMem = s.outMem := rfl
@[simp] theorem adlerReduce_place (s : State) : (adlerReduce s).place = s.place := rfl
@[simp] theorem adlerReduce_preSymbol (s : State) : (adlerReduce s).preSymbol = s.preSymbol := rfl
@[simp] theorem adlerReduce_unitResult (s : State) : (adlerReduce s).unitResult = s.unitResult := rfl
@[simp] theorem adlerReduce_unitError (s : State) : (adlerReduce s).unitError = s.unitError := rfl
@[simp] theorem adlerReduce_freeCount (s : State) : (adlerReduce s).freeCount = s.freeCount := rfl
@[simp] theorem adlerReduce_hostData (s : State) : (adlerReduce s).hostData = s.hostData := rfl
@[simp] theorem adlerReduce_inputs (s : State) : (adlerReduce s).inputs = s.inputs := rfl

@[simp] theorem adlerAdd_errorCode (b : Byte) (s : State) : (adlerAdd b s).errorCode = s.errorCode := rfl
@[simp] theorem adlerAdd_inSize (b : Byte) (s : State) : (adlerAdd b s).inSize = s.inSize := rfl
@[simp] theorem adlerAdd_outCapacity (b : Byte) (s : State) : (adlerAdd b s).outCapacity = s.outCapacity := rfl
@[simp] theorem adlerAdd_outCount (b : Byte) (s : State) : (adlerAdd b s).outCount = s.outCount := rfl
@[simp] theorem adlerAdd_byteStreamSize (b : Byte) (s : State) : (adlerAdd b s).byteStreamSize = s.byteStreamSize := rfl
@[simp] theorem adlerAdd_byteStreamOffset (b : Byte) (s : State) : (adlerAdd b s).byteStreamOffset = s.byteStreamOffset := rfl
@[simp] theorem adlerAdd_bitBuffer (b : Byte) (s : State) : (adlerAdd b s).bitBuffer = s.bitBuffer := rfl
@[simp] theorem adlerAdd_bitBufferSize (b : Byte) (s : State) : (adlerAdd b s).bitBufferSize = s.bitBufferSize := rfl
@[simp] theorem adlerAdd_preTree (b : Byte) (s : State) : (adlerAdd b s).preTree = s.preTree := rfl
@[simp] theorem adlerAdd_dynLitTree (b : Byte) (s : State) : (adlerAdd b s).dynLitTree = s.dynLitTree := rfl
@[simp] theorem adlerAdd_dynDistTree (b : Byte) (s : State) : (adlerAdd b s).dynDistTree = s.dynDistTree := rfl
@[simp] theorem adlerAdd_seqState (b : Byte) (s : State) : (adlerAdd b s).seqState = s.seqState := rfl
@[simp] theorem adlerAdd_lastBlockFlag (b : Byte) (s : State) : (adlerAdd b s).lastBlockFlag = s.lastBlockFlag := rfl
@[simp] theorem adlerAdd_blockType (b : Byte) (s : State) : (adlerAdd b s).blockType = s.blockType := rfl
@[simp] theorem adlerAdd_outOffset (b : Byte) (s : State) : (adlerAdd b s).outOffset = s.outOffset := rfl
@[simp] theorem adlerAdd_storedLen (b : Byte) (s : State) : (adlerAdd b s).storedLen = s.storedLen := rfl
@[simp] theorem adlerAdd_storedNlen (b : Byte) (s : State) : (adlerAdd b s).storedNlen = s.storedNlen := rfl
@[simp] theorem adlerAdd_numLiteralCodes (b : Byte) (s : State) : (adlerAdd b s).numLiteralCodes = s.numLiteralCodes := rfl
@[simp] theorem adlerAdd_numDistanceCodes (b : Byte) (s : State) : (adlerAdd b s).numDistanceCodes = s.numDistanceCodes := rfl
@[simp] theorem adlerAdd_numCodeLengthCodes (b : Byte) (s : State) : (adlerAdd b s).numCodeLengthCodes = s.numCodeLengthCodes := rfl
@[simp] theorem adlerAdd_preLengths (b : Byte) (s : State) : (adlerAdd b s).preLengths = s.preLengths := rfl
@[simp] theorem adlerAdd_codeLengths (b : Byte) (s : State) : (adlerAdd b s).codeLengths = s.codeLengths := rfl
@[simp] theorem adlerAdd_clIndex (b : Byte) (s : State) : (adlerAdd b s).clIndex = s.clIndex := rfl
@[simp] theorem adlerAdd_symbol (b : Byte) (s : State) : (adlerAdd b s).symbol = s.symbol := rfl
@[simp] theorem adlerAdd_length (b : Byte) (s : State) : (adlerAdd b s).length = s.length := rfl
@[simp] theorem adlerAdd_distSymbol (b : Byte) (s : State) : (adlerAdd b s).distSymbol = s.distSymbol := rfl
@[simp] theorem adlerAdd_distance (b : Byte) (s : State) : (adlerAdd b s).distance = s.distance := rfl
@[simp] theorem adlerAdd_adlerLo (b : Byte) (s : State) : (adlerAdd b s).adlerLo = s.adlerLo + b.setWidth 32 := rfl
@[simp] theorem adlerAdd_adlerHi (b : Byte) (s : State) : (adlerAdd b s).adlerHi = s.adlerHi + (s.adlerLo + b.setWidth 32) := rfl
@[simp] theorem adlerAdd_adlerChunk (b : Byte) (s : State) : (adlerAdd b s).adlerChunk = s.adlerChunk + 1 := rfl
@[simp] theorem adlerAdd_inMem (b : Byte) (s : State) : (adlerAdd b s).inMem = s.inMem := rfl
@[simp] theorem adlerAdd_outMem (b : Byte) (s : State) : (adlerAdd b s).outMem = s.outMem := rfl
@[simp] theorem adlerAdd_place (b : Byte) (s : State) : (adlerAdd b s).place = s.place := rfl
@[simp] theorem adlerAdd_preSymbol (b : Byte) (s : State) : (adlerAdd b s).preSymbol = s.preSymbol := rfl
@[simp] theorem adlerAdd_unitResult (b : Byte) (s : State) : (adlerAdd b s).unitResult = s.unitResult := rfl
@[simp] theorem adlerAdd_unitError (b : Byte) (s : State) : (adlerAdd b s).unitError = s.unitError := rfl
@[simp] theorem adlerAdd_freeCount (b : Byte) (s : State) : (adlerAdd b s).freeCount = s.freeCount := rfl
@[simp] theorem adlerAdd_hostData (b : Byte) (s : State) : (adlerAdd b s).hostData = s.hostData := rfl
@[simp] theorem adlerAdd_inputs (b : Byte) (s : State) : (adlerAdd b s).inputs = s.inputs := rfl

@[simp] theorem startCall_errorCode (s : State) : (startCall s).errorCode = 0 := rfl
@[simp] theorem startCall_inSize (s : State) : (startCall s).inSize = s.inSize := rfl
@[simp] theorem startCall_outCapacity (s : State) : (startCall s).outCapacity = s.outCapacity := rfl
@[simp] theorem startCall_outCount (s : State) : (startCall s).outCount = 0 := rfl
@[simp] theorem startCall_byteStreamSize (s : State) : (startCall s).byteStreamSize = s.inSize := rfl
@[simp] theorem startCall_byteStreamOffset (s : State) : (startCall s).byteStreamOffset = freeOffsetIn s := rfl
@[simp] theorem startCall_bitBuffer (s : State) : (startCall s).bitBuffer = 0 := rfl
@[simp] theorem startCall_bitBufferSize (s : State) : (startCall s).bitBufferSize = 0 := rfl
@[simp] theorem startCall_preTree (s : State) : (startCall s).preTree = { s.preTree with built := false } := rfl
@[simp] theorem startCall_dynLitTree (s : State) : (startCall s).dynLitTree = { s.dynLitTree with built := false } := rfl
@[simp] theorem startCall_dynDistTree (s : State) : (startCall s).dynDistTree = { s.dynDistTree with built := false } := rfl
@[simp] theorem startCall_seqState (s : State) : (startCall s).seqState = .header := rfl
@[simp] theorem startCall_lastBlockFlag (s : State) : (startCall s).lastBlockFlag = false := rfl
@[simp] theorem startCall_blockType (s : State) : (startCall s).blockType = 0 := rfl
@[simp] theorem startCall_outOffset (s : State) : (startCall s).outOffset = 0 := rfl
@[simp] theorem startCall_storedLen (s : State) : (startCall s).storedLen = s.storedLen := rfl
@[simp] theorem startCall_storedNlen (s : State) : (startCall s).storedNlen = s.storedNlen := rfl
@[simp] theorem startCall_numLiteralCodes (s : State) : (startCall s).numLiteralCodes = s.numLiteralCodes := rfl
@[simp] theorem startCall_numDistanceCodes (s : State) : (startCall s).numDistanceCodes = s.numDistanceCodes := rfl
@[simp] theorem startCall_numCodeLengthCodes (s : State) : (startCall s).numCodeLengthCodes = s.numCodeLengthCodes := rfl
@[simp] theorem startCall_preLengths (s : State) : (startCall s).preLengths = s.preLengths := rfl
@[simp] theorem startCall_codeLengths (s : State) : (startCall s).codeLengths = s.codeLengths := rfl
@[simp] theorem startCall_clIndex (s : State) : (startCall s).clIndex = s.clIndex := rfl
@[simp] theorem startCall_symbol (s : State) : (startCall s).symbol = s.symbol := rfl
@[simp] theorem startCall_length (s : State) : (startCall s).length = s.length := rfl
@[simp] theorem startCall_distSymbol (s : State) : (startCall s).distSymbol = s.distSymbol := rfl
@[simp] theorem startCall_distance (s : State) : (startCall s).distance = s.distance := rfl
@[simp] theorem startCall_adlerLo (s : State) : (startCall s).adlerLo = s.adlerLo := rfl
@[simp] theorem startCall_adlerHi (s : State) : (startCall s).adlerHi = s.adlerHi := rfl
@[simp] theorem startCall_adlerChunk (s : State) : (startCall s).adlerChunk = s.adlerChunk := rfl
@[simp] theorem startCall_inMem (s : State) : (startCall s).inMem = s.inMem := rfl
@[simp] theorem startCall_outMem (s : State) : (startCall s).outMem = s.outMem := rfl
@[simp] theorem startCall_place (s : State) : (startCall s).place = s.place := rfl
@[simp] theorem startCall_preSymbol (s : State) : (startCall s).preSymbol = s.preSymbol := rfl
@[simp] theorem startCall_unitResult (s : State) : (startCall s).unitResult = s.unitResult := rfl
@[simp] theorem startCall_unitError (s : State) : (startCall s).unitError = s.unitError := rfl
@[simp] theorem startCall_freeCount (s : State) : (startCall s).freeCount = s.freeCount + 1 := rfl
@[simp] theorem startCall_hostData (s : State) : (startCall s).hostData = s.hostData := rfl
@[simp] theorem startCall_inputs (s : State) : (startCall s).inputs = s.inputs := rfl

@[simp] theorem takeFree_errorCode (s : State) : (takeFree s).errorCode = s.errorCode := rfl
@[simp] theorem takeFree_inSize (s : State) : (takeFree s).inSize = s.inSize := rfl
@[simp] theorem takeFree_outCapacity (s : State) : (takeFree s).outCapacity = s.outCapacity := rfl
@[simp] theorem takeFree_outCount (s : State) : (takeFree s).outCount = s.outCount := rfl
@[simp] theorem takeFree_byteStreamSize (s : State) : (takeFree s).byteStreamSize = s.byteStreamSize := rfl
@[simp] theorem takeFree_byteStreamOffset (s : State) : (takeFree s).byteStreamOffset = s.byteStreamOffset := rfl
@[simp] theorem takeFree_bitBuffer (s : State) : (takeFree s).bitBuffer = s.bitBuffer := rfl
@[simp] theorem takeFree_bitBufferSize (s : State) : (takeFree s).bitBufferSize = s.bitBufferSize := rfl
@[simp] theorem takeFree_preTree (s : State) : (takeFree s).preTree = s.preTree := rfl
@[simp] theorem takeFree_dynLitTree (s : State) : (takeFree s).dynLitTree = s.dynLitTree := rfl
@[simp] theorem takeFree_dynDistTree (s : State) : (takeFree s).dynDistTree = s.dynDistTree := rfl
@[simp] theorem takeFree_seqState (s : State) : (takeFree s).seqState = s.seqState := rfl
@[simp] theorem takeFree_lastBlockFlag (s : State) : (takeFree s).lastBlockFlag = s.lastBlockFlag := rfl
@[simp] theorem takeFree_blockType (s : State) : (takeFree s).blockType = s.blockType := rfl
@[simp] theorem takeFree_outOffset (s : State) : (takeFree s).outOffset = s.outOffset := rfl
@[simp] theorem takeFree_storedLen (s : State) : (takeFree s).storedLen = s.storedLen := rfl
@[simp] theorem takeFree_storedNlen (s : State) : (takeFree s).storedNlen = s.storedNlen := rfl
@[simp] theorem takeFree_numLiteralCodes (s : State) : (takeFree s).numLiteralCodes = s.numLiteralCodes := rfl
@[simp] theorem takeFree_numDistanceCodes (s : State) : (takeFree s).numDistanceCodes = s.numDistanceCodes := rfl
@[simp] theorem takeFree_numCodeLengthCodes (s : State) : (takeFree s).numCodeLengthCodes = s.numCodeLengthCodes := rfl
@[simp] theorem takeFree_preLengths (s : State) : (takeFree s).preLengths = s.preLengths := rfl
@[simp] theorem takeFree_codeLengths (s : State) : (takeFree s).codeLengths = s.codeLengths := rfl
@[simp] theorem takeFree_clIndex (s : State) : (takeFree s).clIndex = s.clIndex := rfl
@[simp] theorem takeFree_symbol (s : State) : (takeFree s).symbol = s.symbol := rfl
@[simp] theorem takeFree_length (s : State) : (takeFree s).length = s.length := rfl
@[simp] theorem takeFree_distSymbol (s : State) : (takeFree s).distSymbol = s.distSymbol := rfl
@[simp] theorem takeFree_distance (s : State) : (takeFree s).distance = s.distance := rfl
@[simp] theorem takeFree_adlerLo (s : State) : (takeFree s).adlerLo = s.adlerLo := rfl
@[simp] theorem takeFree_adlerHi (s : State) : (takeFree s).adlerHi = s.adlerHi := rfl
@[simp] theorem takeFree_adlerChunk (s : State) : (takeFree s).adlerChunk = s.adlerChunk := rfl
@[simp] theorem takeFree_inMem (s : State) : (takeFree s).inMem = s.inMem := rfl
@[simp] theorem takeFree_outMem (s : State) : (takeFree s).outMem = s.outMem := rfl
@[simp] theorem takeFree_place (s : State) : (takeFree s).place = s.place := rfl
@[simp] theorem takeFree_preSymbol (s : State) : (takeFree s).preSymbol = s.preSymbol := rfl
@[simp] theorem takeFree_unitResult (s : State) : (takeFree s).unitResult = s.unitResult := rfl
@[simp] theorem takeFree_unitError (s : State) : (takeFree s).unitError = s.unitError := rfl
@[simp] theorem takeFree_freeCount (s : State) : (takeFree s).freeCount = s.freeCount + 1 := rfl
@[simp] theorem takeFree_hostData (s : State) : (takeFree s).hostData = s.hostData := rfl
@[simp] theorem takeFree_inputs (s : State) : (takeFree s).inputs = s.inputs := rfl

end Sys2Proof.Machine
end

