-- ==== Sys2Proof/Laws/Memory.lean ====
section
/-! SUPPORT. The laws of the two memories: a read after a write, and that every memory operation keeps the
canonical form. -/

namespace Sys2Proof.Machine

theorem lookupCell_insertCell_self (a : Nat) (v : Byte) (l : List Host.Cell) :
    lookupCell a (insertCell a v l) = some v := by
  induction l with
  | nil => simp [insertCell, lookupCell]
  | cons c rest ih =>
    obtain ⟨k, b⟩ := c
    simp only [insertCell]
    split
    · simp [lookupCell]
    · split
      · simp [lookupCell]
      · rename_i h
        simp [lookupCell, Ne.symm h, ih]

theorem lookupCell_insertCell_ne {a a' : Nat} (h : a' ≠ a) (v : Byte) (l : List Host.Cell) :
    lookupCell a' (insertCell a v l) = lookupCell a' l := by
  induction l with
  | nil => simp [insertCell, lookupCell, Ne.symm h]
  | cons c rest ih =>
    obtain ⟨k, b⟩ := c
    simp only [insertCell]
    split
    · simp [lookupCell, Ne.symm h]
    · split
      · rename_i hk; subst hk; simp [lookupCell, Ne.symm h]
      · simp only [lookupCell]; split
        · rfl
        · exact ih

theorem cellsSorted_insertCell (a : Nat) (v : Byte) (l : List Host.Cell) :
    ∀ lo : Option Nat, (∀ x, lo = some x → x < a) → cellsSorted lo l = true →
      cellsSorted lo (insertCell a v l) = true := by
  induction l with
  | nil => intro lo hlo _; cases lo with
    | none => simp [insertCell, cellsSorted]
    | some x => simp [insertCell, cellsSorted, hlo x rfl]
  | cons c rest ih =>
    obtain ⟨k, b⟩ := c
    intro lo hlo hs
    have hrest : cellsSorted (some k) rest = true := by cases lo <;> simp_all [cellsSorted]
    have hlok : ∀ x, lo = some x → x < k := by intro x hx; subst hx; simp_all [cellsSorted]
    simp only [insertCell]
    split
    · rename_i hak
      cases lo with
      | none => simp [cellsSorted, hak, hrest]
      | some x => simp [cellsSorted, hak, hrest, hlo x rfl]
    · split
      · rename_i hak; subst hak
        cases lo with
        | none => simp [cellsSorted, hrest]
        | some x => simp [cellsSorted, hrest, hlo x rfl]
      · rename_i h1 h2
        have hi := ih (some k) (by intro x hx; cases hx; omega) hrest
        cases lo with
        | none => simp [cellsSorted, hi]
        | some x => simp [cellsSorted, hi, hlok x rfl]

/-- A read after a write to the same offset gives the byte written. -/
@[simp] theorem Memory.lookup_write_self (m : Memory) (a : Nat) (v : Byte) : (m.write a v).lookup a = some v :=
  lookupCell_insertCell_self a v m.cells

/-- A write leaves every other offset alone. -/
theorem Memory.lookup_write_ne (m : Memory) {a a' : Nat} (h : a' ≠ a) (v : Byte) :
    (m.write a v).lookup a' = m.lookup a' :=
  lookupCell_insertCell_ne h v m.cells

@[simp] theorem Memory.epoch_write (m : Memory) (a : Nat) (v : Byte) : (m.write a v).epoch = m.epoch := rfl

@[simp] theorem Memory.epoch_forget (m : Memory) : m.forget.epoch = m.epoch + 1 := rfl

@[simp] theorem Memory.lookup_forget (m : Memory) (a : Nat) : m.forget.lookup a = none := rfl

/-- Every memory operation keeps the canonical form: a write, -/
theorem Memory.wf_write {m : Memory} (a : Nat) (v : Byte) (h : m.wf = true) : (m.write a v).wf = true :=
  cellsSorted_insertCell a v m.cells none (by simp) h

/-- and forgetting. -/
@[simp] theorem Memory.wf_forget (m : Memory) : m.forget.wf = true := rfl

/-- The memories after reset have the canonical form. -/
theorem reset_memories_wf : State.reset.inMem.wf = true ∧ State.reset.outMem.wf = true := ⟨rfl, rfl⟩

/-- What `MemRead` of IN depends on. -/
theorem memReadIn_congr {s t : State} (h : t.inMem = s.inMem) (hs : t.inSize = s.inSize) (a : Nat) :
    memReadIn a t = memReadIn a s := by
  simp [memReadIn, storedIn, h, hs]

/-- Below IN_SIZE, `MemRead` gives the byte that stands there. -/
theorem memReadIn_of_lt {a : Nat} {s : State} (h : a < s.inSize.toNat) : memReadIn a s = storedIn a s := if_pos h

/-- At and beyond IN_SIZE it depends on no byte of IN (U9). -/
theorem memReadIn_of_ge {a : Nat} {s : State} (h : s.inSize.toNat ≤ a) :
    memReadIn a s = Config.beyondIn s.inMem.epoch s.inSize.toNat a := if_neg (Nat.not_lt.2 h)

theorem memReadOut_congr {s t : State} (h : t.outMem = s.outMem) (a : Nat) : memReadOut a t = memReadOut a s := by
  simp [memReadOut, h]

/-- The byte OUT_OFFSET pointed at reads as the byte put out. -/
theorem memReadOut_putOut_self (v : Byte) (s : State) : memReadOut s.outOffset.toNat (putOut v s) = v := by
  simp [memReadOut]

/-- Every other byte of OUT reads as before. -/
theorem memReadOut_putOut_ne {a : Nat} {s : State} (h : a ≠ s.outOffset.toNat) (v : Byte) :
    memReadOut a (putOut v s) = memReadOut a s := by
  simp [memReadOut, Memory.lookup_write_ne _ h]

end Sys2Proof.Machine
end

