-- ==== Sys2Proof/Laws/Reader.lean ====
section
/-! SUPPORT. The laws of the bit reader: what each of its operations does, said once, in terms of the bits of the
input (40_bit_stream_reader.md R135). -/

namespace Sys2Proof.Machine

/-! ## Results -/

@[simp] theorem Res.bind_ok {α β : Type} (a : α) (s : State) (f : α → State → Res β) :
    (Res.ok a s).bind f = f a s := rfl

@[simp] theorem Res.bind_raised {α β : Type} (e : ErrorKind) (s : State) (f : α → State → Res β) :
    (Res.raised e s : Res α).bind f = .raised e s := rfl

@[simp] theorem Res.bind_refused {α β : Type} (r : Refusal) (f : α → State → Res β) :
    (Res.refused r : Res α).bind f = .refused r := rfl

@[simp] theorem Res.outcome_ok (a : Unit) (s : State) : (Res.ok a s).outcome = .next s := rfl

@[simp] theorem Res.outcome_raised (e : ErrorKind) (s : State) :
    (Res.raised e s).outcome = .next (takeError e s) := rfl

@[simp] theorem Res.outcome_refused (r : Refusal) : (Res.refused r).outcome = .refused r := rfl

@[simp] theorem Res.outcomeWith_ok {α : Type} (a : α) (s : State) (f : α → State → State) :
    (Res.ok a s).outcomeWith f = .next (f a s) := rfl

@[simp] theorem Res.outcomeWith_raised {α : Type} (e : ErrorKind) (s : State) (f : α → State → State) :
    (Res.raised e s : Res α).outcomeWith f = .next (takeError e s) := rfl

@[simp] theorem Res.outcomeWith_refused {α : Type} (r : Refusal) (f : α → State → State) :
    (Res.refused r : Res α).outcomeWith f = .refused r := rfl

/-- A sequence that succeeds has a first part that does. -/
theorem Res.bind_eq_ok {α β : Type} {x : Res α} {f : α → State → Res β} {b : β} {t : State}
    (h : x.bind f = .ok b t) : ∃ a s, x = .ok a s ∧ f a s = .ok b t := by
  cases x with
  | ok a s => exact ⟨a, s, rfl, h⟩
  | raised e s => cases h
  | refused r => cases h

/-! ## Bits and fields of the input -/

theorem inBit_congr {s t : State} (h : t.inMem = s.inMem) (hs : t.inSize = s.inSize) (q : Nat) :
    inBit t q = inBit s q := by
  simp [inBit, memReadIn_congr h hs]

theorem fieldAt_congr {s t : State} (h : t.inMem = s.inMem) (hs : t.inSize = s.inSize) (p n : Nat) :
    fieldAt t p n = fieldAt s p n := by
  induction n generalizing p with
  | zero => rfl
  | succ n ih => simp [fieldAt, ih, inBit_congr h hs]

theorem codeAt_congr {s t : State} (h : t.inMem = s.inMem) (hs : t.inSize = s.inSize) (p n : Nat) :
    codeAt t p n = codeAt s p n := by
  induction n with
  | zero => rfl
  | succ n ih => simp [codeAt, ih, inBit_congr h hs]

theorem inBit_lt (s : State) (q : Nat) : inBit s q < 2 := Nat.mod_lt _ (by decide)

theorem fieldAt_lt (s : State) (p n : Nat) : fieldAt s p n < 2 ^ n := by
  induction n generalizing p with
  | zero => simp [fieldAt]
  | succ n ih =>
    have h1 := ih (p + 1); have h2 := inBit_lt s p
    rw [Nat.pow_succ]; simp only [fieldAt]; omega

theorem codeAt_lt (s : State) (p n : Nat) : codeAt s p n < 2 ^ n := by
  induction n with
  | zero => simp [codeAt]
  | succ n ih =>
    have h2 := inBit_lt s (p + n)
    rw [Nat.pow_succ]; simp only [codeAt]; omega

/-- A field is its low part and, above it, its high part (20_memory.md R76). -/
theorem fieldAt_add (s : State) (p m n : Nat) :
    fieldAt s p (m + n) = fieldAt s p m + 2 ^ m * fieldAt s (p + m) n := by
  induction m generalizing p with
  | zero => simp [fieldAt]
  | succ m ih =>
    have h : m + 1 + n = (m + n) + 1 := by omega
    have h' : p + 1 + m = p + (m + 1) := by omega
    rw [h]; simp only [fieldAt]; rw [ih, h', Nat.pow_succ]
    ring

theorem fieldAt_one (s : State) (p : Nat) : fieldAt s p 1 = inBit s p := by simp [fieldAt]

/-- Eight bits from a byte boundary are the byte. -/
theorem fieldAt_byte (s : State) (a : Nat) : fieldAt s (8 * a) 8 = (memReadIn a s).toNat := by
  have hd : ∀ i, i < 8 → (8 * a + i) / 8 = a ∧ (8 * a + i) % 8 = i := by omega
  have h := (memReadIn a s).isLt
  simp only [fieldAt, inBit, Nat.add_assoc]
  rw [show 8 * a / 8 = a by omega, show 8 * a % 8 = 0 by omega]
  simp only [(hd 1 (by omega)).1, (hd 1 (by omega)).2, (hd 2 (by omega)).1, (hd 2 (by omega)).2,
    (hd 3 (by omega)).1, (hd 3 (by omega)).2, (hd 4 (by omega)).1, (hd 4 (by omega)).2,
    (hd 5 (by omega)).1, (hd 5 (by omega)).2, (hd 6 (by omega)).1, (hd 6 (by omega)).2,
    (hd 7 (by omega)).1, (hd 7 (by omega)).2, Nat.reduceAdd]
  generalize (memReadIn a s).toNat = b at h ⊢
  omega

/-! ## The frame of the reader -/

theorem SameButReader.refl (s : State) : SameButReader s s := rfl

theorem SameButReader.trans {s t u : State} (h1 : SameButReader s t) (h2 : SameButReader t u) :
    SameButReader s u := by
  unfold SameButReader at *
  rw [h2, h1]

theorem SameButReader.inMem {s t : State} (h : SameButReader s t) : t.inMem = s.inMem := by rw [h]

theorem SameButReader.inSize {s t : State} (h : SameButReader s t) : t.inSize = s.inSize := by rw [h]

/-- What is changed in the reader alone changes no bit of the input. -/
theorem SameButReader.fieldAt {s t : State} (h : SameButReader s t) (p n : Nat) : fieldAt t p n = fieldAt s p n :=
  fieldAt_congr h.inMem h.inSize p n

theorem SameButReader.codeAt {s t : State} (h : SameButReader s t) (p n : Nat) : codeAt t p n = codeAt s p n :=
  codeAt_congr h.inMem h.inSize p n

theorem SameButReader.streamSize {s t : State} (h : SameButReader s t) : t.byteStreamSize = s.byteStreamSize := by rw [h]

theorem sameButReader_loadByte (s : State) : SameButReader s (brLoadByte s) := rfl

theorem sameButReader_take (n : Nat) (s : State) : SameButReader s (brTake n s) := rfl

/-- The bounds are about the reader's registers alone. -/
theorem ReaderBounds.congr {s t : State} (h : ReaderBounds s) (h1 : t.bitBuffer = s.bitBuffer)
    (h2 : t.bitBufferSize = s.bitBufferSize) (h3 : t.byteStreamOffset = s.byteStreamOffset)
    (h4 : t.byteStreamSize = s.byteStreamSize) : ReaderBounds t where
  cursor := by rw [h3, h4]; exact h.cursor
  size := by rw [h2]; exact h.size
  loaded := by rw [h2, h3]; exact h.loaded
  clear := by rw [h1, h2]; exact h.clear

/-- The invariants are about the reader's registers, IN and IN_SIZE alone. -/
theorem ReaderInv.congr {s t : State} (h : ReaderInv s) (h1 : t.bitBuffer = s.bitBuffer)
    (h2 : t.bitBufferSize = s.bitBufferSize) (h3 : t.byteStreamOffset = s.byteStreamOffset)
    (h4 : t.byteStreamSize = s.byteStreamSize) (h5 : t.inMem = s.inMem) (h6 : t.inSize = s.inSize) : ReaderInv t := by
  refine ⟨h.toReaderBounds.congr h1 h2 h3 h4, ?_⟩
  have e := h.content
  rw [h1, fieldAt_congr h5 h6]; simp only [State.pos, h2, h3] at e ⊢; exact e

theorem ReaderOk.congr {s t : State} (h : ReaderOk s) (h1 : t.bitBuffer = s.bitBuffer)
    (h2 : t.bitBufferSize = s.bitBufferSize) (h3 : t.byteStreamOffset = s.byteStreamOffset)
    (h4 : t.byteStreamSize = s.byteStreamSize) (h5 : t.inMem = s.inMem) (h6 : t.inSize = s.inSize) : ReaderOk t :=
  ⟨h.inv.congr h1 h2 h3 h4 h5 h6, by rw [h2]; exact h.few⟩

/-! ## Loading a byte -/

theorem or_shiftLeft_toNat (b : BitVec 32) (x : Byte) (k : Nat) (hb : b.toNat < 2 ^ k) (hk : k + 8 ≤ 32) :
    (b ||| (x.setWidth 32 <<< k)).toNat = b.toNat + 2 ^ k * x.toNat := by
  have hx : x.toNat * 2 ^ k < 2 ^ 32 := by
    calc x.toNat * 2 ^ k < 2 ^ 8 * 2 ^ k := Nat.mul_lt_mul_of_pos_right x.isLt (Nat.two_pow_pos k)
      _ = 2 ^ (8 + k) := (Nat.pow_add 2 8 k).symm
      _ ≤ 2 ^ 32 := Nat.pow_le_pow_right (by decide) (by omega)
  have hx8 : x.toNat % 2 ^ 32 = x.toNat := Nat.mod_eq_of_lt (Nat.lt_trans x.isLt (by decide))
  rw [BitVec.toNat_or, BitVec.toNat_shiftLeft, BitVec.toNat_setWidth, hx8, Nat.shiftLeft_eq, Nat.mod_eq_of_lt hx,
    Nat.or_comm, Nat.mul_comm x.toNat, ← Nat.two_pow_add_eq_or_of_lt hb, Nat.add_comm]

/-- Loading a byte keeps the bounds and POS, and adds 8 bits. -/
theorem loadByte_bounds {s : State} (h : ReaderBounds s) (hb : s.byteStreamOffset.toNat < s.byteStreamSize.toNat)
    (hf : s.bitBufferSize.toNat + 8 ≤ 32) :
    ReaderBounds (brLoadByte s) ∧ (brLoadByte s).pos = s.pos ∧
      (brLoadByte s).bitBufferSize.toNat = s.bitBufferSize.toNat + 8 ∧
      (brLoadByte s).byteStreamOffset.toNat = s.byteStreamOffset.toNat + 1 ∧
      (brLoadByte s).bitBuffer.toNat
        = s.bitBuffer.toNat + 2 ^ s.bitBufferSize.toNat * (memReadIn s.byteStreamOffset.toNat s).toNat := by
  have hlt := s.byteStreamSize.isLt
  have hsz : (brLoadByte s).bitBufferSize.toNat = s.bitBufferSize.toNat + 8 := by
    simp only [brLoadByte_bitBufferSize, BitVec.toNat_add]
    exact Nat.mod_eq_of_lt (by have : (8 : BitVec 6).toNat = 8 := rfl; omega)
  have hoff : (brLoadByte s).byteStreamOffset.toNat = s.byteStreamOffset.toNat + 1 := by
    simp only [brLoadByte_byteStreamOffset, BitVec.toNat_add]
    exact Nat.mod_eq_of_lt (by have : (1 : BitVec 32).toNat = 1 := rfl; omega)
  have hbuf : (brLoadByte s).bitBuffer.toNat
      = s.bitBuffer.toNat + 2 ^ s.bitBufferSize.toNat * (memReadIn s.byteStreamOffset.toNat s).toNat := by
    simp only [brLoadByte_bitBuffer]
    exact or_shiftLeft_toNat _ _ _ h.clear hf
  have hclear := h.clear; have hloaded := h.loaded; have hx := (memReadIn s.byteStreamOffset.toNat s).isLt
  refine ⟨⟨?_, ?_, ?_, ?_⟩, ?_, hsz, hoff, hbuf⟩
  · rw [hoff, brLoadByte_byteStreamSize]; omega
  · rw [hsz]; omega
  · rw [hsz, hoff]; omega
  · rw [hbuf, hsz, Nat.pow_add]
    have hmul := Nat.mul_le_mul_left (2 ^ s.bitBufferSize.toNat) (Nat.le_sub_one_of_lt hx)
    have hpos := Nat.two_pow_pos s.bitBufferSize.toNat
    omega
  · simp only [State.pos, hsz, hoff]; omega

/-- Loading a byte keeps the invariants and POS, and adds 8 bits. -/
theorem loadByte_spec {s : State} (h : ReaderInv s) (hb : s.byteStreamOffset.toNat < s.byteStreamSize.toNat)
    (hf : s.bitBufferSize.toNat + 8 ≤ 32) :
    ReaderInv (brLoadByte s) ∧ (brLoadByte s).pos = s.pos ∧
      (brLoadByte s).bitBufferSize.toNat = s.bitBufferSize.toNat + 8 ∧
      (brLoadByte s).byteStreamOffset.toNat = s.byteStreamOffset.toNat + 1 := by
  obtain ⟨h1, hpos, hsz, hoff, hbuf⟩ := loadByte_bounds h.toReaderBounds hb hf
  have hloaded := h.loaded
  have hend : s.pos + s.bitBufferSize.toNat = 8 * s.byteStreamOffset.toNat := by
    simp only [State.pos]; omega
  refine ⟨⟨h1, ?_⟩, hpos, hsz, hoff⟩
  rw [hbuf, hpos, hsz, (sameButReader_loadByte s).fieldAt, fieldAt_add, hend, fieldAt_byte, ← h.content]

/-- `k` bytes. -/
theorem load_spec (k : Nat) {s : State} (h : ReaderInv s)
    (hb : s.byteStreamOffset.toNat + k ≤ s.byteStreamSize.toNat) (hf : s.bitBufferSize.toNat + 8 * k ≤ 32) :
    SameButReader s (brLoad k s) ∧ ReaderInv (brLoad k s) ∧ (brLoad k s).pos = s.pos ∧
      (brLoad k s).bitBufferSize.toNat = s.bitBufferSize.toNat + 8 * k ∧
      (brLoad k s).byteStreamOffset.toNat = s.byteStreamOffset.toNat + k := by
  induction k generalizing s with
  | zero => exact ⟨rfl, h, rfl, by simp [brLoad], by simp [brLoad]⟩
  | succ k ih =>
    obtain ⟨h1, h2, h3, h4⟩ := loadByte_spec h (by omega) (by omega)
    obtain ⟨g0, g1, g2, g3, g4⟩ := ih (s := brLoadByte s) h1 (by rw [h4]; simp only [brLoadByte_byteStreamSize]; omega)
      (by rw [h3]; omega)
    simp only [brLoad]
    exact ⟨(sameButReader_loadByte s).trans g0, g1, g2.trans h2, by rw [g3, h3]; omega, by rw [g4, h4]; omega⟩

/-! ## BR.READ -/

/-- BR.READ of at most 32 bits that are there and fit. -/
theorem read_spec {n : Nat} {s : State} (hn : n ≤ 32)
    (hb : (n + 7) / 8 ≤ bytesLeft s) (hf : s.bitBufferSize.toNat + 8 * ((n + 7) / 8) ≤ 32) :
    brRead n s = .ok () (brLoad ((n + 7) / 8) s) := by
  simp only [brRead]
  rw [if_neg (by omega), if_neg (by omega), if_neg (by omega)]

/-! ## BR.GET_VALUE -/

/-- The refill: enough bits are buffered afterwards, POS has not moved. -/
theorem fill_spec (fuel : Nat) {n : Nat} {s : State} (h : ReaderInv s)
    (hb : n ≤ bitsLeft s) (hf : RefillFits n s) (hfuel : n ≤ s.bitBufferSize.toNat + 8 * fuel) :
    ∃ u, brFill fuel n s = .ok () u ∧ SameButReader s u ∧ ReaderInv u ∧ u.pos = s.pos ∧
      n ≤ u.bitBufferSize.toNat ∧ (u.bitBufferSize.toNat ≤ s.bitBufferSize.toNat ∨ u.bitBufferSize.toNat < n + 8) := by
  induction fuel generalizing s with
  | zero => exact ⟨s, rfl, rfl, h, rfl, by omega, .inl (Nat.le_refl _)⟩
  | succ fuel ih =>
    simp only [brFill]
    split
    · rename_i hlt
      have hbl : 1 ≤ bytesLeft s := by simp only [bitsLeft] at hb; omega
      have hfit : s.bitBufferSize.toNat + 8 ≤ 32 := by simp only [RefillFits] at hf; omega
      have hr : brRead 8 s = .ok () (brLoadByte s) := read_spec (by decide) hbl hfit
      obtain ⟨h1, h2, h3, h4⟩ := loadByte_spec h (by simp only [bytesLeft] at hbl; omega) hfit
      have hbl' : bytesLeft (brLoadByte s) = bytesLeft s - 1 := by
        simp only [bytesLeft, h4, brLoadByte_byteStreamSize]; omega
      obtain ⟨u, g1, g2, g3, g4, g5, g6⟩ := ih (s := brLoadByte s) h1
        (by simp only [bitsLeft, hbl', h3] at hb ⊢; omega)
        (by simp only [RefillFits, h3] at hf ⊢; omega) (by rw [h3]; omega)
      refine ⟨u, by rw [hr]; exact g1, (sameButReader_loadByte s).trans g2, g3, g4.trans h2, g5, ?_⟩
      rw [h3] at g6; omega
    · exact ⟨s, rfl, rfl, h, rfl, by omega, .inl (Nat.le_refl _)⟩

/-- Taking `n` buffered bits keeps the bounds, and moves POS by `n`. -/
theorem take_bounds {n : Nat} {s : State} (h : ReaderBounds s) (hn : n ≤ s.bitBufferSize.toNat) :
    ReaderBounds (brTake n s) ∧ (brTake n s).pos = s.pos + n ∧
      (brTake n s).bitBufferSize.toNat = s.bitBufferSize.toNat - n ∧
      (brTake n s).bitBuffer.toNat = s.bitBuffer.toNat / 2 ^ n := by
  have hsz := h.size; have hlo := h.loaded
  have hsub : (brTake n s).bitBufferSize.toNat = s.bitBufferSize.toNat - n := by
    simp only [brTake_bitBufferSize]
    rw [BitVec.toNat_sub_of_le]
    · simp; omega
    · rw [BitVec.le_def]; simp; omega
  have hdiv : (brTake n s).bitBuffer.toNat = s.bitBuffer.toNat / 2 ^ n := by
    simp only [brTake_bitBuffer, BitVec.toNat_ushiftRight, Nat.shiftRight_eq_div_pow]
  refine ⟨⟨h.cursor, ?_, ?_, ?_⟩, ?_, hsub, hdiv⟩
  · rw [hsub]; omega
  · rw [hsub, brTake_byteStreamOffset]; omega
  · rw [hdiv, hsub, Nat.div_lt_iff_lt_mul (Nat.two_pow_pos n), ← Nat.pow_add, Nat.sub_add_cancel hn]
    exact h.clear
  · simp only [State.pos, hsub, brTake_byteStreamOffset]; omega

/-- Taking `n` buffered bits. -/
theorem take_spec {n : Nat} {s : State} (h : ReaderInv s) (hn : n ≤ s.bitBufferSize.toNat) :
    ReaderInv (brTake n s) ∧ (brTake n s).pos = s.pos + n ∧
      (brTake n s).bitBufferSize.toNat = s.bitBufferSize.toNat - n ∧
      s.bitBuffer.toNat % 2 ^ n = fieldAt s s.pos n := by
  obtain ⟨h1, hpos, hsub, hdiv⟩ := take_bounds h.toReaderBounds hn
  have hsplit : s.bitBuffer.toNat = fieldAt s s.pos n + 2 ^ n * fieldAt s (s.pos + n) (s.bitBufferSize.toNat - n) := by
    rw [h.content, ← fieldAt_add]; congr 1; omega
  have hlt := fieldAt_lt s s.pos n
  refine ⟨⟨h1, ?_⟩, hpos, hsub, ?_⟩
  · rw [hdiv, hpos, hsub, (sameButReader_take n s).fieldAt, hsplit, Nat.add_mul_div_left _ _ (Nat.two_pow_pos n),
      Nat.div_eq_of_lt hlt, Nat.zero_add]
  · rw [hsplit, Nat.add_mul_mod_self_left, Nat.mod_eq_of_lt hlt]

/-! ## The bounds of the reader, in every state -/

theorem freeOffsetIn_le (s : State) : (freeOffsetIn s).toNat ≤ s.inSize.toNat := by
  have h := Nat.mod_lt (Config.freeOffset s.freeCount) (show 0 < s.inSize.toNat + 1 by omega)
  have hlt := s.inSize.isLt
  simp only [freeOffsetIn, BitVec.toNat_ofNat]
  rw [Nat.mod_eq_of_lt (by omega)]
  omega

/-- A reader with an empty buffer and its cursor within its input is within its bounds. -/
theorem ReaderBounds.of_empty {s : State} (h : s.byteStreamOffset.toNat ≤ s.byteStreamSize.toNat) (h1 : s.bitBuffer = 0)
    (h2 : s.bitBufferSize = 0) : ReaderBounds s where
  cursor := h
  size := by simp [h2]
  loaded := by simp [h2]
  clear := by simp [h1]

theorem startCall_bounds (s : State) : ReaderBounds (startCall s) := .of_empty (freeOffsetIn_le s) rfl rfl

theorem brInitPastEnd_bounds (s : State) : ReaderBounds (brInitPastEnd s) := .of_empty (freeOffsetIn_le s) rfl rfl

theorem brInit_bounds {off : Word} {s : State} (h : off.toNat ≤ s.inSize.toNat) : ReaderBounds (brInit off s) :=
  .of_empty h rfl rfl

theorem load_bounds (k : Nat) {s : State} (h : ReaderBounds s)
    (hb : s.byteStreamOffset.toNat + k ≤ s.byteStreamSize.toNat) (hf : s.bitBufferSize.toNat + 8 * k ≤ 32) :
    SameButReader s (brLoad k s) ∧ ReaderBounds (brLoad k s) := by
  induction k generalizing s with
  | zero => exact ⟨rfl, h⟩
  | succ k ih =>
    obtain ⟨h1, -, h3, h4, -⟩ := loadByte_bounds h (by omega) (by omega)
    obtain ⟨g1, g2⟩ := ih h1 (by rw [h4, brLoadByte_byteStreamSize]; omega) (by rw [h3]; omega)
    exact ⟨(sameButReader_loadByte s).trans g1, g2⟩

/-- All that BR.READ does when it completes: it has passed its tests, and loads whole bytes. -/
theorem brRead_ok {n : Nat} {u : Unit} {s t : State} (hr : brRead n s = .ok u t) :
    (n + 7) / 8 ≤ bytesLeft s ∧ s.bitBufferSize.toNat + 8 * ((n + 7) / 8) ≤ 32 ∧ t = brLoad ((n + 7) / 8) s := by
  simp only [brRead] at hr
  split at hr
  · cases hr
  · split at hr
    · cases hr
    · split at hr
      · cases hr
      · cases hr; exact ⟨by omega, by omega, rfl⟩

/-- It changes the reader only, within the bounds of 10_state.md R23. -/
theorem brRead_bounds {n : Nat} {u : Unit} {s t : State} (h : ReaderBounds s) (hr : brRead n s = .ok u t) :
    SameButReader s t ∧ ReaderBounds t := by
  obtain ⟨h1, h2, rfl⟩ := brRead_ok hr
  have hc := h.cursor
  exact load_bounds _ h (by simp only [bytesLeft] at h1; omega) h2

/-- The refill likewise, and then `n` bits are buffered. -/
theorem brFill_bounds (fuel : Nat) {n : Nat} {u : Unit} {s t : State} (h : ReaderBounds s)
    (hr : brFill fuel n s = .ok u t) :
    SameButReader s t ∧ ReaderBounds t ∧ (n ≤ s.bitBufferSize.toNat + 8 * fuel → n ≤ t.bitBufferSize.toNat) := by
  induction fuel generalizing s with
  | zero => cases hr; exact ⟨rfl, h, fun hn => hn⟩
  | succ fuel ih =>
    simp only [brFill] at hr
    split at hr
    · obtain ⟨_, s1, h1, h2⟩ := Res.bind_eq_ok hr
      obtain ⟨a1, a2, rfl⟩ := brRead_ok h1
      have hs := brRead_bounds h h1
      have hsz := (loadByte_bounds h (by simp only [bytesLeft] at a1; omega) (by omega)).2.2.1
      obtain ⟨g1, g2, g3⟩ := ih hs.2 h2
      exact ⟨hs.1.trans g1, g2, fun hn => g3 (by simp only [Nat.reduceAdd, Nat.reduceDiv, brLoad, hsz]; omega)⟩
    · cases hr; exact ⟨rfl, h, fun _ => by omega⟩

/-- All that BR.GET_VALUE does when it completes: it changes the reader only, within the bounds of 10_state.md R23. -/
theorem brGetValue_bounds {n v : Nat} {s t : State} (h : ReaderBounds s) (hr : brGetValue n s = .ok v t) :
    SameButReader s t ∧ ReaderBounds t := by
  simp only [brGetValue] at hr
  split at hr
  · cases hr
  · split at hr
    · cases hr; exact ⟨rfl, h⟩
    · split at hr
      · cases hr
      · obtain ⟨_, s1, h1, h2⟩ := Res.bind_eq_ok hr
        cases h2
        obtain ⟨g1, g2, g3⟩ := brFill_bounds 4 h h1
        exact ⟨g1.trans (sameButReader_take n s1), (take_bounds g2 (g3 (by omega))).1⟩

theorem bitsLeft_eq {s : State} (h : ReaderInv s) : s.pos + bitsLeft s = 8 * s.byteStreamSize.toNat := by
  have h1 := h.cursor; have h2 := h.loaded
  simp only [State.pos, bitsLeft, bytesLeft]; omega

/-- BR.GET_VALUE(n) when the bits are there and the refill fits: the field, and POS `n` further
(40_bit_stream_reader.md R135). -/
theorem getValue_spec {n : Nat} {s : State} (h : ReaderInv s) (hn : n ≤ 32) (hb : Available n s) (hf : RefillFits n s) :
    ∃ u, brGetValue n s = .ok (fieldAt s s.pos n) u ∧ SameButReader s u ∧ ReaderInv u ∧ u.pos = s.pos + n ∧
      (u.bitBufferSize.toNat + n ≤ s.bitBufferSize.toNat ∨ u.bitBufferSize.toNat < 8) := by
  have hbl := bitsLeft_eq h
  simp only [Available] at hb
  simp only [brGetValue]
  rw [if_neg (by omega)]
  by_cases h0 : n = 0
  · subst h0
    exact ⟨s, rfl, rfl, h, rfl, .inl (Nat.le_refl _)⟩
  · rw [if_neg h0, if_neg (by omega)]
    obtain ⟨u, g1, g2, g3, g4, g5, g6⟩ := fill_spec 4 (n := n) h (by omega) hf (by omega)
    obtain ⟨k1, k2, k3, k4⟩ := take_spec g3 g5
    refine ⟨brTake n u, ?_, g2.trans (sameButReader_take n u), k1, by rw [k2, g4], ?_⟩
    · rw [g1]; simp only [Res.bind_ok]; rw [k4, g4, g2.fieldAt]
    · rw [k3]; omega

/-- BR.GET_VALUE of bits that are not all there: OutOfData, and nothing changed (40_bit_stream_reader.md R134). -/
theorem getValue_short {n : Nat} {s : State} (h : ReaderInv s) (hn : n ≤ 32) (hb : ¬ Available n s) :
    brGetValue n s = .raised .outOfData s := by
  have hbl := bitsLeft_eq h
  simp only [Available] at hb
  simp only [brGetValue]
  have h0 : n ≠ 0 := by
    intro h0; subst h0; omega
  rw [if_neg (by omega), if_neg h0, if_pos (by omega)]

theorem refillFits_of_few {n : Nat} {s : State} (h : s.bitBufferSize.toNat ≤ 7) (hn : n ≤ 25) : RefillFits n s := by
  simp only [RefillFits]; omega

/-- What the sequencer's reads do: at most 25 bits, at most 7 buffered before and after. -/
theorem getValue_consumed {n : Nat} {s : State} (h : ReaderOk s) (hn : n ≤ 25) (hb : Available n s) :
    ∃ u, brGetValue n s = .ok (fieldAt s s.pos n) u ∧ Consumed n s u := by
  obtain ⟨u, h1, h2, h3, h4, h5⟩ := getValue_spec h.inv (by omega) hb (refillFits_of_few h.few hn)
  exact ⟨u, h1, h2, h4, h3, by have := h.few; omega⟩

theorem Consumed.trans {m n : Nat} {s t u : State} (h1 : Consumed m s t) (h2 : Consumed n t u) :
    Consumed (m + n) s u :=
  ⟨h1.same.trans h2.same, by rw [h2.pos, h1.pos]; omega, h2.ok⟩

theorem Consumed.streamSize {n : Nat} {s t : State} (h : Consumed n s t) : t.byteStreamSize = s.byteStreamSize :=
  h.same.streamSize

/-- BR.FLUSH with at most 7 bits buffered: the buffer is empty and POS is at the next byte (R136, R137). -/
theorem flush_spec {s : State} (h : ReaderOk s) :
    Consumed (alignUp s.pos - s.pos) s (brFlush s) ∧ (brFlush s).pos = alignUp s.pos ∧
      (brFlush s).bitBufferSize.toNat = 0 ∧ (brFlush s).pos = 8 * (brFlush s).byteStreamOffset.toNat := by
  have hf := h.few; have hl := h.inv.loaded
  have hm : s.bitBufferSize.toNat % 8 = s.bitBufferSize.toNat := Nat.mod_eq_of_lt (by omega)
  obtain ⟨k1, k2, k3, -⟩ := take_spec (n := s.bitBufferSize.toNat) h.inv (Nat.le_refl _)
  have he : brFlush s = brTake s.bitBufferSize.toNat s := by simp only [brFlush, hm]
  have hpos : s.pos + s.bitBufferSize.toNat = 8 * s.byteStreamOffset.toNat := by simp only [State.pos]; omega
  have ha : alignUp s.pos = 8 * s.byteStreamOffset.toNat := by simp only [alignUp]; omega
  rw [he]
  have hs0 : (brTake s.bitBufferSize.toNat s).bitBufferSize.toNat = 0 := by rw [k3]; omega
  exact ⟨⟨rfl, by rw [k2]; omega, k1, by omega⟩, by rw [k2]; omega, hs0, by
    rw [k2, hpos]; rfl⟩

/-- BR.READ_BYTE on an aligned reader (40_bit_stream_reader.md R138). -/
theorem readByte_spec {s : State} (h : ReaderOk s) (h0 : s.bitBufferSize.toNat = 0) (hb : Available 8 s) :
    ∃ u, brReadByte s = .ok (memReadIn s.byteStreamOffset.toNat s) u ∧ Consumed 8 s u ∧
      u.bitBufferSize.toNat = 0 ∧ u.byteStreamOffset.toNat = s.byteStreamOffset.toNat + 1 := by
  obtain ⟨u, h1, h2⟩ := getValue_consumed h (n := 8) (by decide) hb
  have hpos : s.pos = 8 * s.byteStreamOffset.toNat := by simp only [State.pos]; omega
  have hl := h2.ok.inv.loaded; have hfew := h2.ok.few; have hp := h2.pos
  simp only [State.pos] at hp
  refine ⟨u, ?_, h2, by omega, by omega⟩
  simp only [brReadByte, h1, Res.bind_ok, hpos, fieldAt_byte]
  rw [BitVec.ofNat_toNat, BitVec.setWidth_eq]

/-- Consuming `k` bits one at a time. -/
theorem takeBits_spec (k : Nat) {s : State} (h : ReaderOk s) (hb : Available k s) :
    ∃ u, takeBits k s = .ok () u ∧ Consumed k s u := by
  induction k generalizing s with
  | zero => exact ⟨s, rfl, rfl, rfl, h⟩
  | succ k ih =>
    simp only [Available] at hb
    obtain ⟨u, h1, h2⟩ := getValue_consumed h (n := 1) (by decide) (by simp only [Available]; omega)
    obtain ⟨v, g1, g2⟩ := ih h2.ok (by simp only [Available, h2.pos, h2.streamSize]; omega)
    have := h2.trans g2
    exact ⟨v, by simp only [takeBits, h1, Res.bind_ok, g1], by rw [Nat.add_comm]; exact this⟩

/-- Consuming `k` bytes one at a time on an aligned reader. -/
theorem takeBytes_spec (k : Nat) {s : State} (h : ReaderOk s) (h0 : s.bitBufferSize.toNat = 0) (hb : Available (8 * k) s) :
    ∃ u, takeBytes k s = .ok () u ∧ Consumed (8 * k) s u ∧ u.bitBufferSize.toNat = 0 ∧
      u.byteStreamOffset.toNat = s.byteStreamOffset.toNat + k := by
  induction k generalizing s with
  | zero => exact ⟨s, rfl, ⟨rfl, rfl, h⟩, h0, rfl⟩
  | succ k ih =>
    simp only [Available] at hb
    obtain ⟨u, h1, h2, h3, h4⟩ := readByte_spec h h0 (by simp only [Available]; omega)
    obtain ⟨v, g1, g2, g3, g4⟩ := ih h2.ok h3 (by simp only [Available, h2.pos, h2.streamSize]; omega)
    have := h2.trans g2
    exact ⟨v, by simp only [takeBytes, h1, Res.bind_ok, g1], by rw [show 8 * (k + 1) = 8 + 8 * k by omega]; exact this, g3, by omega⟩

end Sys2Proof.Machine
end

