-- ==== Sys2Proof/Laws/Output.lean ====
section
/-! SUPPORT. The laws of the loops that write: the copy, the data of a stored block, the code lengths, and the
checksum pass. -/

namespace Sys2Proof.Machine

/-- `t` is `s` but for OUT and OUT_OFFSET. -/
def SameButOut (s t : State) : Prop := t = { s with outMem := t.outMem, outOffset := t.outOffset }

theorem SameButOut.trans {s t u : State} (h1 : SameButOut s t) (h2 : SameButOut t u) : SameButOut s u := by
  unfold SameButOut at *
  rw [h2, h1]

theorem sameButOut_putOut (v : Byte) (s : State) : SameButOut s (putOut v s) := rfl

theorem putOut_offset {v : Byte} {s : State} (h : s.outOffset.toNat + 1 < 2 ^ 32) :
    (putOut v s).outOffset.toNat = s.outOffset.toNat + 1 := by
  simp only [putOut_outOffset, BitVec.toNat_add]
  exact Nat.mod_eq_of_lt (by have : (1 : BitVec 32).toNat = 1 := rfl; omega)

/-! ## LZ.COPY -/

theorem copyLoop_sameButOut (k d : Nat) (s : State) : SameButOut s (copyLoop k d s) := by
  induction k generalizing s with
  | zero => exact rfl
  | succ k ih => exact (sameButOut_putOut _ s).trans (ih _)

/-- The copy advances OUT_OFFSET by its length, leaves every byte outside the copied range alone, and each byte it
writes is the byte `d` before it, read from the result (43_lz77_expander.md R212). -/
theorem copyLoop_spec (k : Nat) {d : Nat} : ∀ {s : State}, 1 ≤ d → d ≤ s.outOffset.toNat →
    s.outOffset.toNat + k < 2 ^ 32 →
      (copyLoop k d s).outOffset.toNat = s.outOffset.toNat + k ∧
      (∀ a, a < s.outOffset.toNat ∨ s.outOffset.toNat + k ≤ a → memReadOut a (copyLoop k d s) = memReadOut a s) ∧
      (∀ i, i < k → memReadOut (s.outOffset.toNat + i) (copyLoop k d s)
        = memReadOut (s.outOffset.toNat + i - d) (copyLoop k d s)) := by
  induction k with
  | zero => intro s _ _ _; exact ⟨rfl, fun a _ => rfl, fun i hi => absurd hi (by omega)⟩
  | succ k ih =>
    intro s h1 hd hk
    have hoff := putOut_offset (v := memReadOut (s.outOffset.toNat - d) s) (s := s) (by omega)
    obtain ⟨g1, g2, g3⟩ := ih (s := putOut (memReadOut (s.outOffset.toNat - d) s) s) h1 (by rw [hoff]; omega)
      (by rw [hoff]; omega)
    rw [hoff] at g1 g2 g3
    simp only [copyLoop]
    refine ⟨by rw [g1]; omega, ?_, ?_⟩
    · intro a ha
      rw [g2 a (by omega), memReadOut_putOut_ne (by omega)]
    · intro i hi
      rcases Nat.eq_zero_or_pos i with rfl | hpos
      · rw [Nat.add_zero, g2 _ (by omega), g2 _ (by omega), memReadOut_putOut_self, memReadOut_putOut_ne (by omega)]
      · have := g3 (i - 1) (by omega)
        rw [show s.outOffset.toNat + 1 + (i - 1) = s.outOffset.toNat + i by omega] at this
        exact this

/-- The copy at DISTANCE = 0 changes OUT, OUT_OFFSET and the count of free values, and in OUT only the range it writes;
of the bytes there nothing is known (log 32). -/
theorem freeCopy_spec (k : Nat) : ∀ {s : State}, s.outOffset.toNat + k < 2 ^ 32 →
    freeCopy k s = { s with
      outMem := (freeCopy k s).outMem, outOffset := BitVec.ofNat 32 (s.outOffset.toNat + k)
      freeCount := s.freeCount + k } ∧
    ∀ a, a < s.outOffset.toNat ∨ s.outOffset.toNat + k ≤ a → memReadOut a (freeCopy k s) = memReadOut a s := by
  induction k with
  | zero => intro s _; exact ⟨by simp [freeCopy], fun _ _ => rfl⟩
  | succ k ih =>
    intro s hk
    have hoff := putOut_offset (v := Config.freeByte s.freeCount) (s := s) (by omega)
    obtain ⟨h1, h2⟩ := ih (s := takeFree (putOut (Config.freeByte s.freeCount) s))
      (by rw [takeFree_outOffset, hoff]; omega)
    rw [takeFree_outOffset, hoff] at h1 h2
    simp only [freeCopy]
    refine ⟨?_, fun a ha => ?_⟩
    · rw [h1]
      simp only [takeFree, putOut, State.mk.injEq, true_and, and_true]
      exact ⟨by congr 1; omega, by omega⟩
    · rw [h2 a (by omega)]
      exact memReadOut_putOut_ne (s := s) (by omega) (Config.freeByte s.freeCount)

/-- A back-reference that completes has passed its checks, reads only below OUT_OFFSET (20_memory.md R66), and is the
copy. -/
theorem backReference_ok {length distance : Nat} {s t : State} (h : backReference length distance s = .ok () t) :
    distance ≤ s.outOffset.toNat ∧ s.outOffset.toNat + length ≤ s.outCapacity.toNat ∧
      (distance = 0 ∧ t = freeCopy length s ∨ 1 ≤ distance ∧ t = copyLoop length distance s) := by
  unfold backReference at h
  split at h
  · cases h
  · split at h
    · cases h
    · split at h <;> injection h with _ h
      · exact ⟨by omega, by omega, .inl ⟨‹_›, h.symm⟩⟩
      · exact ⟨by omega, by omega, .inr ⟨by omega, h.symm⟩⟩

/-! ## The data of a stored block -/

/-- The copy of a stored block on an aligned reader (42_deflate_framing.md R176). -/
theorem storedLoop_spec (k : Nat) : ∀ {s : State}, ReaderOk s → s.bitBufferSize.toNat = 0 → Available (8 * k) s →
    s.outOffset.toNat + k < 2 ^ 32 →
    ∃ u, storedLoop k s = .ok () u ∧ ReaderOk u ∧ u.bitBufferSize.toNat = 0 ∧
      u.byteStreamOffset.toNat = s.byteStreamOffset.toNat + k ∧ u.outOffset.toNat = s.outOffset.toNat + k ∧
      u = { s with
        bitBuffer := u.bitBuffer, bitBufferSize := u.bitBufferSize, byteStreamOffset := u.byteStreamOffset
        outMem := u.outMem, outOffset := u.outOffset } ∧
      (∀ i, i < k → memReadOut (s.outOffset.toNat + i) u = memReadIn (s.byteStreamOffset.toNat + i) s) ∧
      (∀ a, a < s.outOffset.toNat ∨ s.outOffset.toNat + k ≤ a → memReadOut a u = memReadOut a s) := by
  induction k with
  | zero =>
    intro s h h0 _ _
    exact ⟨s, rfl, h, h0, rfl, rfl, rfl, fun i hi => absurd hi (by omega), fun a _ => rfl⟩
  | succ k ih =>
    intro s h h0 ha ho
    simp only [Available] at ha
    obtain ⟨u, h1, h2, h3, h4⟩ := readByte_spec h h0 (by simp only [Available]; omega)
    have hu := h2.same
    have huo : u.outOffset = s.outOffset := by rw [hu]
    have hum : u.outMem = s.outMem := by rw [hu]
    have hok : ReaderOk (putOut (memReadIn s.byteStreamOffset.toNat s) u) := h2.ok.congr rfl rfl rfl rfl rfl rfl
    have hoff := putOut_offset (v := memReadIn s.byteStreamOffset.toNat s) (s := u) (by rw [huo]; omega)
    have hpos : (putOut (memReadIn s.byteStreamOffset.toNat s) u).pos = u.pos := rfl
    obtain ⟨v, g1, g2, g3, g4, g5, g6, g7, g8⟩ := ih (s := putOut (memReadIn s.byteStreamOffset.toNat s) u) hok h3
      (by simp only [Available, hpos, h2.pos, putOut_byteStreamSize, h2.streamSize]; omega) (by rw [hoff, huo]; omega)
    rw [hoff, huo] at g5 g7 g8
    simp only [putOut_byteStreamOffset, h4] at g4 g7
    refine ⟨v, by simp only [storedLoop, h1, Res.bind_ok, g1], g2, g3, by omega, by omega, ?_, ?_, ?_⟩
    · rw [g6, hu]; rfl
    · intro i hi
      rcases Nat.eq_zero_or_pos i with rfl | hp
      · rw [Nat.add_zero, g8 _ (by omega), Nat.add_zero]
        have := memReadOut_putOut_self (memReadIn s.byteStreamOffset.toNat s) u
        rwa [huo] at this
      · have := g7 (i - 1) (by omega)
        rw [show s.outOffset.toNat + 1 + (i - 1) = s.outOffset.toNat + i by omega,
          show s.byteStreamOffset.toNat + 1 + (i - 1) = s.byteStreamOffset.toNat + i by omega] at this
        rw [this]
        exact memReadIn_congr (by rw [putOut_inMem, hu]) (by rw [putOut_inSize, hu]) _
    · intro a ha'
      rw [g8 a (by omega), memReadOut_putOut_ne (by rw [huo]; omega)]
      exact memReadOut_congr hum a

/-! ## The code lengths -/

/-- Appending lengths changes CODE_LENGTHS and CL_INDEX only; the entries outside the appended range are as before
(42_deflate_framing.md R184, R185). -/
theorem appendLengths_spec (r : Nat) (v : BitVec 4) : ∀ {s : State}, s.clIndex.toNat + r ≤ 316 →
    (appendLengths r v s).clIndex.toNat = s.clIndex.toNat + r ∧
      appendLengths r v s = { s with
        codeLengths := (appendLengths r v s).codeLengths, clIndex := (appendLengths r v s).clIndex } ∧
      ∀ (j : Nat) (h : j < 316), (appendLengths r v s).codeLengths[j]
        = if s.clIndex.toNat ≤ j ∧ j < s.clIndex.toNat + r then v else s.codeLengths[j] := by
  induction r with
  | zero =>
    intro s _
    exact ⟨rfl, rfl, fun j h => by rw [if_neg (by omega)]; rfl⟩
  | succ r ih =>
    intro s hr
    have hidx : (appendLength v s).clIndex.toNat = s.clIndex.toNat + 1 := by
      simp only [appendLength, BitVec.toNat_add]
      exact Nat.mod_eq_of_lt (by have : (1 : BitVec 9).toNat = 1 := rfl; omega)
    obtain ⟨g1, g2, g3⟩ := ih (s := appendLength v s) (by rw [hidx]; omega)
    rw [hidx] at g1 g3
    simp only [appendLengths]
    refine ⟨by rw [g1]; omega, by rw [g2]; rfl, fun j h => ?_⟩
    rw [g3 j h]
    by_cases hj : s.clIndex.toNat = j
    · subst hj
      rw [if_neg (by omega), if_pos (by omega)]
      simp [appendLength]
    · have hset : (appendLength v s).codeLengths[j] = s.codeLengths[j] := by
        simp [appendLength, hj]
      rw [hset]
      by_cases hc : s.clIndex.toNat + 1 ≤ j ∧ j < s.clIndex.toNat + 1 + r
      · rw [if_pos hc, if_pos (by omega)]
      · rw [if_neg hc, if_neg (by omega)]

/-! ## The checksum unit -/

/-- `t` is `s` but for the checksum registers. -/
def SameButAdler (s t : State) : Prop :=
  t = { s with adlerLo := t.adlerLo, adlerHi := t.adlerHi, adlerChunk := t.adlerChunk }

theorem SameButAdler.trans {s t u : State} (h1 : SameButAdler s t) (h2 : SameButAdler t u) : SameButAdler s u := by
  unfold SameButAdler at *
  rw [h2, h1]

theorem sameButAdler_update (b : Byte) (s : State) : SameButAdler s (adlerUpdate b s) := by
  simp only [SameButAdler, adlerUpdate]
  split <;> rfl

theorem sameButAdler_pass (k a : Nat) (s : State) : SameButAdler s (adlerPass k a s) := by
  induction k generalizing a s with
  | zero => exact rfl
  | succ k ih => exact (sameButAdler_update _ s).trans (ih _ _)

/-- The checksum pass changes the checksum registers only. -/
theorem sameButAdler_ofOut (s : State) : SameButAdler s (adlerOfOut s) := by
  have h1 : SameButAdler s (adlerInit 1 s) := rfl
  have h2 := sameButAdler_pass s.outOffset.toNat 0 (adlerInit 1 s)
  have h3 : SameButAdler (adlerPass s.outOffset.toNat 0 (adlerInit 1 s)) (adlerOfOut s) := rfl
  exact (h1.trans h2).trans h3

end Sys2Proof.Machine
end

