-- ==== Sys2Proof/Laws/PerInstr.lean ====
section
/-! SUPPORT. Statements about every instruction as syntax, one lemma per constructor: decoding the word of a
well-formed instruction gives it back (30_encoding.md R92 to R118, R124). -/

namespace Sys2Proof.Laws

/-- A field of a word, by its value. -/
theorem bits_eq_of {w lo n : Nat} {v : BitVec n} (h : w / 2 ^ lo % 2 ^ n = v.toNat) : bits w lo n = v := by
  apply BitVec.eq_of_toNat_eq
  simp only [bits, BitVec.toNat_ofNat]; exact h

/-- A field of a word is not a value. -/
theorem bits_ne_of {w lo n : Nat} {v : BitVec n} (h : w / 2 ^ lo % 2 ^ n ≠ v.toNat) : bits w lo n ≠ v := by
  intro he; apply h; rw [← he]; simp only [bits, BitVec.toNat_ofNat]

/-- Decoding a word that fits and has an element. -/
theorem decode_of_fit {f : Format} {w : Nat} {i : Instr} (hw : w < 2 ^ f.width) (h : decodeFit f w = some i) :
    decode f w = .ok i := by
  simp only [decode, h]; rw [if_neg (by omega)]

theorem ofNat_toNat_self {n : Nat} (v : BitVec n) : BitVec.ofNat n v.toNat = v := by simp

/-- The round trip of one instruction: decoding its word gives it back. -/
def RoundTrip.Statement (i : Instr) : Prop :=
  i.wf = true → ∀ f w, encode i = some (f, w) → decode f w = .ok i

/-- The round trip, from the word that the encoder gives. -/
theorem roundTrip_of {i : Instr} {f : Format} {w : Nat} (he : encode i = some (f, w))
    (h : i.wf = true → decode f w = .ok i) : RoundTrip.Statement i := by
  intro hw f' w' he'
  rw [he] at he'
  cases he'
  exact h hw

/-- A unit operation has no word. -/
theorem roundTrip_of_none {i : Instr} (he : encode i = none) : RoundTrip.Statement i := by
  intro _ f w h; rw [he] at h; cases h

namespace RoundTrip

theorem zhdr (cinfo : BitVec 3) (fcheck : BitVec 5) (flevel : BitVec 2) : Statement (.zhdr cinfo fcheck flevel) := by
  refine roundTrip_of rfl fun _ => ?_
  have h1 := cinfo.isLt; have h2 := fcheck.isLt; have h3 := flevel.isLt
  refine decode_of_fit (by simp only [Format.width]; omega) ?_
  simp only [decodeFit, decodeZhdr]
  have c : bits (8 + cinfo.toNat * 16 + fcheck.toNat * 256 + flevel.toNat * 16384) 0 4 = 8 :=
    bits_eq_of (by simp; omega)
  rw [if_neg (by simp [c]), if_neg (bits_ne_of (by simp; omega)), if_neg (bits_ne_of (by simp; omega)),
    bits_eq_of (v := cinfo) (by omega), bits_eq_of (v := fcheck) (by omega), bits_eq_of (v := flevel) (by omega)]

theorem zhdrBadwindow (cinfo : BitVec 3) (fcheck : BitVec 5) (fdict : BitVec 1) (flevel : BitVec 2) :
    Statement (.zhdrBadwindow cinfo fcheck fdict flevel) := by
  refine roundTrip_of rfl fun _ => ?_
  have h1 := cinfo.isLt; have h2 := fcheck.isLt; have h3 := flevel.isLt; have h4 := fdict.isLt
  refine decode_of_fit (by simp only [Format.width]; omega) ?_
  simp only [decodeFit, decodeZhdr]
  have c : bits (0x88 + cinfo.toNat * 16 + fcheck.toNat * 256 + fdict.toNat * 8192 + flevel.toNat * 16384) 0 4 = 8 :=
    bits_eq_of (by simp; omega)
  rw [if_neg (by simp [c]), if_pos (bits_eq_of (by simp; omega)),
    bits_eq_of (v := cinfo) (by omega), bits_eq_of (v := fcheck) (by omega), bits_eq_of (v := fdict) (by omega),
    bits_eq_of (v := flevel) (by omega)]

theorem zhdrFdict (cinfo : BitVec 3) (fcheck : BitVec 5) (flevel : BitVec 2) :
    Statement (.zhdrFdict cinfo fcheck flevel) := by
  refine roundTrip_of rfl fun _ => ?_
  have h1 := cinfo.isLt; have h2 := fcheck.isLt; have h3 := flevel.isLt
  refine decode_of_fit (by simp only [Format.width]; omega) ?_
  simp only [decodeFit, decodeZhdr]
  have c : bits (0x2008 + cinfo.toNat * 16 + fcheck.toNat * 256 + flevel.toNat * 16384) 0 4 = 8 :=
    bits_eq_of (by simp; omega)
  rw [if_neg (by simp [c]), if_neg (bits_ne_of (by simp; omega)), if_pos (bits_eq_of (by simp; omega)),
    bits_eq_of (v := cinfo) (by omega), bits_eq_of (v := fcheck) (by omega), bits_eq_of (v := flevel) (by omega)]

theorem zhdrBadcm (cm cinfo : BitVec 4) (fcheck : BitVec 5) (fdict : BitVec 1) (flevel : BitVec 2) :
    Statement (.zhdrBadcm cm cinfo fcheck fdict flevel) := by
  refine roundTrip_of rfl fun hw => ?_
  have h0 := cm.isLt; have h1 := cinfo.isLt; have h2 := fcheck.isLt; have h3 := flevel.isLt; have h4 := fdict.isLt
  refine decode_of_fit (by simp only [Format.width]; omega) ?_
  simp only [decodeFit, decodeZhdr]
  have c : bits (cm.toNat + cinfo.toNat * 16 + fcheck.toNat * 256 + fdict.toNat * 8192 + flevel.toNat * 16384) 0 4 = cm :=
    bits_eq_of (by omega)
  have hne : cm ≠ 8 := by simpa [Instr.wf] using hw
  rw [if_pos (by rw [c]; exact hne), c, bits_eq_of (v := cinfo) (by omega), bits_eq_of (v := fcheck) (by omega),
    bits_eq_of (v := fdict) (by omega), bits_eq_of (v := flevel) (by omega)]

theorem bhdrStored (last : Bool) : Statement (.bhdrStored last) := by
  refine roundTrip_of rfl fun _ => ?_
  cases last <;> rfl

theorem bhdrFixed (last : Bool) : Statement (.bhdrFixed last) := by
  refine roundTrip_of rfl fun _ => ?_
  cases last <;> rfl

theorem bhdrDynamic (last : Bool) : Statement (.bhdrDynamic last) := by
  refine roundTrip_of rfl fun _ => ?_
  cases last <;> rfl

theorem bhdrReserved (last : Bool) : Statement (.bhdrReserved last) := by
  refine roundTrip_of rfl fun _ => ?_
  cases last <;> rfl

theorem stored (len nlen : BitVec 16) : Statement (.stored len nlen) := by
  refine roundTrip_of rfl fun _ => ?_
  have h1 := len.isLt; have h2 := nlen.isLt
  refine decode_of_fit (by simp only [Format.width]; omega) ?_
  simp only [decodeFit]
  rw [bits_eq_of (v := len) (by omega), bits_eq_of (v := nlen) (by omega)]

theorem dynhdr (hlit hdist : BitVec 5) (hclen : BitVec 4) : Statement (.dynhdr hlit hdist hclen) := by
  refine roundTrip_of rfl fun _ => ?_
  have h1 := hlit.isLt; have h2 := hdist.isLt; have h3 := hclen.isLt
  refine decode_of_fit (by simp only [Format.width]; omega) ?_
  simp only [decodeFit]
  rw [bits_eq_of (v := hlit) (by omega), bits_eq_of (v := hdist) (by omega), bits_eq_of (v := hclen) (by omega)]

theorem prelen (length : BitVec 3) : Statement (.prelen length) := by
  refine roundTrip_of rfl fun _ => ?_
  have h1 := length.isLt
  refine decode_of_fit (by simp only [Format.width]; omega) ?_
  simp only [decodeFit]
  rw [bits_eq_of (v := length) (by omega)]

theorem clLen (length : BitVec 4) : Statement (.clLen length) := by
  refine roundTrip_of rfl fun _ => ?_
  have h1 := length.isLt
  refine decode_of_fit (by simp only [Format.width]; omega) ?_
  simp only [decodeFit, decodeClsym]
  rw [if_pos (by omega), ofNat_toNat_self]

theorem lit (byte : Byte) : Statement (.lit byte) := by
  refine roundTrip_of rfl fun _ => ?_
  have h1 := byte.isLt
  refine decode_of_fit (by simp only [Format.width]; omega) ?_
  simp only [decodeFit, decodeLitlen]
  rw [if_pos (by omega), ofNat_toNat_self]

theorem trailer (adlerHi adlerLo : BitVec 16) : Statement (.trailer adlerHi adlerLo) := by
  refine roundTrip_of rfl fun _ => ?_
  have h1 := adlerHi.isLt; have h2 := adlerLo.isLt
  refine decode_of_fit (by simp only [Format.width]; omega) ?_
  simp only [decodeFit]
  rw [bits_eq_of (v := adlerHi) (by omega), bits_eq_of (v := adlerLo) (by omega)]

theorem decompress (ignored : BitVec 31) : Statement (.decompress ignored) := by
  refine roundTrip_of rfl fun _ => ?_
  have h1 := ignored.isLt
  refine decode_of_fit (by simp only [Format.width]; omega) ?_
  simp only [decodeFit]
  rw [if_pos (bits_eq_of (by simp)), bits_eq_of (v := ignored) (by omega)]

theorem fixlit7 (code : BitVec 7) : Statement (.fixlit7 code) := by
  refine roundTrip_of rfl fun hw => ?_
  simp only [Instr.wf, decide_eq_true_eq] at hw
  refine decode_of_fit (by simp only [Format.width]; omega) ?_
  simp only [decodeFit, decodeFix]
  rw [if_pos hw, ofNat_toNat_self]

theorem fixlit8a (code : BitVec 8) : Statement (.fixlit8a code) := by
  refine roundTrip_of rfl fun hw => ?_
  simp only [Instr.wf, Bool.and_eq_true, decide_eq_true_eq] at hw
  refine decode_of_fit (by simp only [Format.width]; omega) ?_
  simp only [decodeFit, decodeFix]
  rw [if_pos hw, ofNat_toNat_self]

theorem fixlit8b (code : BitVec 8) : Statement (.fixlit8b code) := by
  refine roundTrip_of rfl fun hw => ?_
  simp only [Instr.wf, Bool.and_eq_true, decide_eq_true_eq] at hw
  refine decode_of_fit (by simp only [Format.width]; omega) ?_
  simp only [decodeFit, decodeFix]
  rw [if_neg (by omega), if_pos hw, ofNat_toNat_self]

theorem fixlit9 (code : BitVec 9) : Statement (.fixlit9 code) := by
  refine roundTrip_of rfl fun hw => ?_
  simp only [Instr.wf, decide_eq_true_eq] at hw
  have h1 := code.isLt
  refine decode_of_fit (by simp only [Format.width]; omega) ?_
  simp only [decodeFit, decodeFix]
  rw [if_pos hw, ofNat_toNat_self]

theorem fixdist5 (code : BitVec 5) : Statement (.fixdist5 code) := by
  refine roundTrip_of rfl fun hw => ?_
  simp only [Instr.wf, decide_eq_true_eq] at hw
  have h1 := code.isLt
  refine decode_of_fit (by simp only [Format.width]; omega) ?_
  simp only [decodeFit, decodeFix]
  rw [if_pos hw, ofNat_toNat_self]

theorem brInit (off : Word) : Statement (.brInit off) := roundTrip_of_none rfl
theorem brRead (n : Nat) : Statement (.brRead n) := roundTrip_of_none rfl
theorem brGetValue (n : Nat) : Statement (.brGetValue n) := roundTrip_of_none rfl
theorem brFlush : Statement .brFlush := roundTrip_of_none rfl
theorem brReadByte : Statement .brReadByte := roundTrip_of_none rfl
theorem brRemainingBytes : Statement .brRemainingBytes := roundTrip_of_none rfl
theorem htBuild (tree : TreeId) (codeLengths : List (BitVec 8)) : Statement (.htBuild tree codeLengths) := roundTrip_of_none rfl
theorem htDecodeSymbol (tree : TreeId) : Statement (.htDecodeSymbol tree) := roundTrip_of_none rfl
theorem dyntrees : Statement .dyntrees := roundTrip_of_none rfl
theorem matchCopy : Statement .matchCopy := roundTrip_of_none rfl
theorem lzCopy (length : BitVec 9) (distance : BitVec 16) : Statement (.lzCopy length distance) := roundTrip_of_none rfl
theorem adlerInit (initial : Word) : Statement (.adlerInit initial) := roundTrip_of_none rfl
theorem adlerUpdate (byte : Byte) : Statement (.adlerUpdate byte) := roundTrip_of_none rfl
theorem adlerFinal : Statement .adlerFinal := roundTrip_of_none rfl

theorem clRep : Statement .clRep := roundTrip_of rfl fun _ => rfl
theorem clZrep3 : Statement .clZrep3 := roundTrip_of rfl fun _ => rfl
theorem clZrep11 : Statement .clZrep11 := roundTrip_of rfl fun _ => rfl
theorem eob : Statement .eob := roundTrip_of rfl fun _ => rfl
theorem len0 : Statement .len0 := roundTrip_of rfl fun _ => rfl
theorem len1 : Statement .len1 := roundTrip_of rfl fun _ => rfl
theorem len2 : Statement .len2 := roundTrip_of rfl fun _ => rfl
theorem len3 : Statement .len3 := roundTrip_of rfl fun _ => rfl
theorem len4 : Statement .len4 := roundTrip_of rfl fun _ => rfl
theorem len5 : Statement .len5 := roundTrip_of rfl fun _ => rfl
theorem len6 : Statement .len6 := roundTrip_of rfl fun _ => rfl
theorem len7 : Statement .len7 := roundTrip_of rfl fun _ => rfl
theorem len8 : Statement .len8 := roundTrip_of rfl fun _ => rfl
theorem len9 : Statement .len9 := roundTrip_of rfl fun _ => rfl
theorem len10 : Statement .len10 := roundTrip_of rfl fun _ => rfl
theorem len11 : Statement .len11 := roundTrip_of rfl fun _ => rfl
theorem len12 : Statement .len12 := roundTrip_of rfl fun _ => rfl
theorem len13 : Statement .len13 := roundTrip_of rfl fun _ => rfl
theorem len14 : Statement .len14 := roundTrip_of rfl fun _ => rfl
theorem len15 : Statement .len15 := roundTrip_of rfl fun _ => rfl
theorem len16 : Statement .len16 := roundTrip_of rfl fun _ => rfl
theorem len17 : Statement .len17 := roundTrip_of rfl fun _ => rfl
theorem len18 : Statement .len18 := roundTrip_of rfl fun _ => rfl
theorem len19 : Statement .len19 := roundTrip_of rfl fun _ => rfl
theorem len20 : Statement .len20 := roundTrip_of rfl fun _ => rfl
theorem len21 : Statement .len21 := roundTrip_of rfl fun _ => rfl
theorem len22 : Statement .len22 := roundTrip_of rfl fun _ => rfl
theorem len23 : Statement .len23 := roundTrip_of rfl fun _ => rfl
theorem len24 : Statement .len24 := roundTrip_of rfl fun _ => rfl
theorem len25 : Statement .len25 := roundTrip_of rfl fun _ => rfl
theorem len26 : Statement .len26 := roundTrip_of rfl fun _ => rfl
theorem len27 : Statement .len27 := roundTrip_of rfl fun _ => rfl
theorem len28 : Statement .len28 := roundTrip_of rfl fun _ => rfl
theorem litlenRsvd286 : Statement .litlenRsvd286 := roundTrip_of rfl fun _ => rfl
theorem litlenRsvd287 : Statement .litlenRsvd287 := roundTrip_of rfl fun _ => rfl
theorem dist0 : Statement .dist0 := roundTrip_of rfl fun _ => rfl
theorem dist1 : Statement .dist1 := roundTrip_of rfl fun _ => rfl
theorem dist2 : Statement .dist2 := roundTrip_of rfl fun _ => rfl
theorem dist3 : Statement .dist3 := roundTrip_of rfl fun _ => rfl
theorem dist4 : Statement .dist4 := roundTrip_of rfl fun _ => rfl
theorem dist5 : Statement .dist5 := roundTrip_of rfl fun _ => rfl
theorem dist6 : Statement .dist6 := roundTrip_of rfl fun _ => rfl
theorem dist7 : Statement .dist7 := roundTrip_of rfl fun _ => rfl
theorem dist8 : Statement .dist8 := roundTrip_of rfl fun _ => rfl
theorem dist9 : Statement .dist9 := roundTrip_of rfl fun _ => rfl
theorem dist10 : Statement .dist10 := roundTrip_of rfl fun _ => rfl
theorem dist11 : Statement .dist11 := roundTrip_of rfl fun _ => rfl
theorem dist12 : Statement .dist12 := roundTrip_of rfl fun _ => rfl
theorem dist13 : Statement .dist13 := roundTrip_of rfl fun _ => rfl
theorem dist14 : Statement .dist14 := roundTrip_of rfl fun _ => rfl
theorem dist15 : Statement .dist15 := roundTrip_of rfl fun _ => rfl
theorem dist16 : Statement .dist16 := roundTrip_of rfl fun _ => rfl
theorem dist17 : Statement .dist17 := roundTrip_of rfl fun _ => rfl
theorem dist18 : Statement .dist18 := roundTrip_of rfl fun _ => rfl
theorem dist19 : Statement .dist19 := roundTrip_of rfl fun _ => rfl
theorem dist20 : Statement .dist20 := roundTrip_of rfl fun _ => rfl
theorem dist21 : Statement .dist21 := roundTrip_of rfl fun _ => rfl
theorem dist22 : Statement .dist22 := roundTrip_of rfl fun _ => rfl
theorem dist23 : Statement .dist23 := roundTrip_of rfl fun _ => rfl
theorem dist24 : Statement .dist24 := roundTrip_of rfl fun _ => rfl
theorem dist25 : Statement .dist25 := roundTrip_of rfl fun _ => rfl
theorem dist26 : Statement .dist26 := roundTrip_of rfl fun _ => rfl
theorem dist27 : Statement .dist27 := roundTrip_of rfl fun _ => rfl
theorem dist28 : Statement .dist28 := roundTrip_of rfl fun _ => rfl
theorem dist29 : Statement .dist29 := roundTrip_of rfl fun _ => rfl
theorem distRsvd30 : Statement .distRsvd30 := roundTrip_of rfl fun _ => rfl
theorem distRsvd31 : Statement .distRsvd31 := roundTrip_of rfl fun _ => rfl

end RoundTrip

end Sys2Proof.Laws
end

