-- ==== Sys2Proof/Laws/Symbols.lean ====
section
/-! SUPPORT. The laws of symbol decoding (41_huffman_tree_decoder.md R156) and of the trees HT.BUILD makes (R152). -/

namespace Sys2Proof.Machine

/-! ## HT.DECODE_SYMBOL -/

/-- The loop finds the first length at which the bits read are a code. -/
theorem matchLoop_found {t : TreeStore} {sym : BitVec 9} (k : Nat) :
    ∀ (fuel L p : Nat) {s : State}, ReaderOk s → s.pos = p + L → k < fuel → Available (k + 1) s →
      (∀ j, j < k → t.lookup (L + j + 1) (codeAt s p (L + j + 1)) = none) →
      t.lookup (L + k + 1) (codeAt s p (L + k + 1)) = some sym →
      ∃ u, htMatchLoop t fuel L (codeAt s p L) s = .ok ⟨L + k + 1, codeAt s p (L + k + 1), sym⟩ u ∧
        Consumed (k + 1) s u := by
  induction k with
  | zero =>
    intro fuel L p s h hp hf ha _ hm
    obtain ⟨fuel, rfl⟩ : ∃ f, fuel = f + 1 := ⟨fuel - 1, by omega⟩
    obtain ⟨u, h1, h2⟩ := getValue_consumed h (n := 1) (by decide) ha
    refine ⟨u, ?_, h2⟩
    simp only [htMatchLoop, h1, Res.bind_ok, fieldAt_one, hp]
    have : 2 * codeAt s p L + inBit s (p + L) = codeAt s p (L + 0 + 1) := rfl
    rw [this, show L + 1 = L + 0 + 1 from rfl, hm]
  | succ k ih =>
    intro fuel L p s h hp hf ha hn hm
    obtain ⟨fuel, rfl⟩ : ∃ f, fuel = f + 1 := ⟨fuel - 1, by omega⟩
    simp only [Available] at ha
    obtain ⟨u, h1, h2⟩ := getValue_consumed h (n := 1) (by decide) (by simp only [Available]; omega)
    have hc : ∀ n, codeAt u p n = codeAt s p n := h2.same.codeAt p
    obtain ⟨v, g1, g2⟩ := ih fuel (L + 1) p (s := u) h2.ok (by rw [h2.pos, hp]; omega) (by omega)
      (by simp only [Available, h2.pos, h2.streamSize]; omega)
      (fun j hj => by rw [hc, show L + 1 + j + 1 = L + (j + 1) + 1 by omega]; exact hn (j + 1) (by omega))
      (by rw [hc, show L + 1 + k + 1 = L + (k + 1) + 1 by omega]; exact hm)
    refine ⟨v, ?_, by have := h2.trans g2; rwa [Nat.add_comm] at this⟩
    have h0 := hn 0 (by omega)
    simp only [htMatchLoop, h1, Res.bind_ok, fieldAt_one, hp]
    have he : 2 * codeAt s p L + inBit s (p + L) = codeAt s p (L + 0 + 1) := rfl
    rw [he, show L + 1 = L + 0 + 1 from rfl, h0]
    simp only [hc] at g1
    rw [show L + 1 + k + 1 = L + (k + 1) + 1 by omega] at g1
    exact g1

/-- No match within the bits that may be read: CorruptedCode. -/
theorem matchLoop_corrupted {t : TreeStore} (fuel : Nat) :
    ∀ (L p : Nat) {s : State}, ReaderOk s → s.pos = p + L → Available fuel s →
      (∀ j, j < fuel → t.lookup (L + j + 1) (codeAt s p (L + j + 1)) = none) →
      ∃ u, htMatchLoop t fuel L (codeAt s p L) s = .raised .corruptedCode u ∧ Consumed fuel s u := by
  induction fuel with
  | zero => intro L p s h _ _ _; exact ⟨s, rfl, rfl, rfl, h⟩
  | succ fuel ih =>
    intro L p s h hp ha hn
    simp only [Available] at ha
    obtain ⟨u, h1, h2⟩ := getValue_consumed h (n := 1) (by decide) (by simp only [Available]; omega)
    have hc : ∀ n, codeAt u p n = codeAt s p n := h2.same.codeAt p
    obtain ⟨v, g1, g2⟩ := ih (L + 1) p (s := u) h2.ok (by rw [h2.pos, hp]; omega)
      (by simp only [Available, h2.pos, h2.streamSize]; omega)
      (fun j hj => by rw [hc, show L + 1 + j + 1 = L + (j + 1) + 1 by omega]; exact hn (j + 1) (by omega))
    refine ⟨v, ?_, by have := h2.trans g2; rwa [Nat.add_comm] at this⟩
    have h0 := hn 0 (by omega)
    simp only [htMatchLoop, h1, Res.bind_ok, fieldAt_one, hp]
    have he : 2 * codeAt s p L + inBit s (p + L) = codeAt s p (L + 0 + 1) := rfl
    rw [he, show L + 1 = L + 0 + 1 from rfl, h0]
    simp only [hc] at g1
    exact g1

/-- The input ends before a match: OutOfData at the missing bit. -/
theorem matchLoop_short {t : TreeStore} (k : Nat) :
    ∀ (fuel L p : Nat) {s : State}, ReaderOk s → s.pos = p + L → k < fuel → Available k s → ¬ Available (k + 1) s →
      (∀ j, j < k → t.lookup (L + j + 1) (codeAt s p (L + j + 1)) = none) →
      ∃ u, htMatchLoop t fuel L (codeAt s p L) s = .raised .outOfData u ∧ Consumed k s u := by
  induction k with
  | zero =>
    intro fuel L p s h _ hf _ ha _
    obtain ⟨fuel, rfl⟩ : ∃ f, fuel = f + 1 := ⟨fuel - 1, by omega⟩
    exact ⟨s, by simp only [htMatchLoop, getValue_short h.inv (by decide : 1 ≤ 32) ha, Res.bind_raised], rfl, rfl, h⟩
  | succ k ih =>
    intro fuel L p s h hp hf ha ha' hn
    obtain ⟨fuel, rfl⟩ : ∃ f, fuel = f + 1 := ⟨fuel - 1, by omega⟩
    simp only [Available] at ha ha'
    obtain ⟨u, h1, h2⟩ := getValue_consumed h (n := 1) (by decide) (by simp only [Available]; omega)
    have hc : ∀ n, codeAt u p n = codeAt s p n := h2.same.codeAt p
    obtain ⟨v, g1, g2⟩ := ih fuel (L + 1) p (s := u) h2.ok (by rw [h2.pos, hp]; omega) (by omega)
      (by simp only [Available, h2.pos, h2.streamSize]; omega) (by simp only [Available, h2.pos, h2.streamSize]; omega)
      (fun j hj => by rw [hc, show L + 1 + j + 1 = L + (j + 1) + 1 by omega]; exact hn (j + 1) (by omega))
    refine ⟨v, ?_, by have := h2.trans g2; rwa [Nat.add_comm] at this⟩
    have h0 := hn 0 (by omega)
    simp only [htMatchLoop, h1, Res.bind_ok, fieldAt_one, hp]
    have he : 2 * codeAt s p L + inBit s (p + L) = codeAt s p (L + 0 + 1) := rfl
    rw [he, show L + 1 = L + 0 + 1 from rfl, h0]
    simp only [hc] at g1
    exact g1

/-- What HT.DECODE_SYMBOL can do on a store that is built: match, or raise one of two errors; `k` bits are consumed. -/
theorem matchLoop_cases (t : TreeStore) (fuel : Nat) :
    ∀ (L p : Nat) {s : State}, ReaderOk s → s.pos = p + L →
      (∃ k sym u, htMatchLoop t fuel L (codeAt s p L) s = .ok ⟨L + k + 1, codeAt s p (L + k + 1), sym⟩ u ∧ k < fuel ∧
        t.lookup (L + k + 1) (codeAt s p (L + k + 1)) = some sym ∧ Consumed (k + 1) s u) ∨
      (∃ k u, htMatchLoop t fuel L (codeAt s p L) s = .raised .outOfData u ∧ k < fuel ∧ Consumed k s u) ∨
      (∃ u, htMatchLoop t fuel L (codeAt s p L) s = .raised .corruptedCode u ∧ Consumed fuel s u) := by
  induction fuel with
  | zero => intro L p s h _; exact .inr (.inr ⟨s, rfl, rfl, rfl, h⟩)
  | succ fuel ih =>
    intro L p s h hp
    by_cases ha : Available 1 s
    · obtain ⟨u, h1, h2⟩ := getValue_consumed h (n := 1) (by decide) ha
      have hc : ∀ n, codeAt u p n = codeAt s p n := h2.same.codeAt p
      have he : 2 * codeAt s p L + inBit s (p + L) = codeAt s p (L + 1) := rfl
      simp only [htMatchLoop, h1, Res.bind_ok, fieldAt_one, hp, he]
      cases hm : t.lookup (L + 1) (codeAt s p (L + 1)) with
      | some sym => exact .inl ⟨0, sym, u, rfl, by omega, hm, h2⟩
      | none =>
        have := ih (L + 1) p (s := u) h2.ok (by rw [h2.pos, hp]; omega)
        simp only [hc] at this
        obtain ⟨k, sym, v, g1, g2, g3, g4⟩ | ⟨k, v, g1, g2, g3⟩ | ⟨v, g1, g2⟩ := this
        · refine .inl ⟨k + 1, sym, v, ?_, by omega, ?_, ?_⟩
          · rw [show L + (k + 1) + 1 = L + 1 + k + 1 by omega]; exact g1
          · rw [show L + (k + 1) + 1 = L + 1 + k + 1 by omega]; exact g3
          · have := h2.trans g4; rwa [Nat.add_comm] at this
        · exact .inr (.inl ⟨k + 1, v, g1, by omega, by have := h2.trans g3; rwa [Nat.add_comm] at this⟩)
        · exact .inr (.inr ⟨v, g1, by have := h2.trans g2; rwa [Nat.add_comm] at this⟩)
    · exact .inr (.inl ⟨0, s, by simp only [htMatchLoop, getValue_short h.inv (by decide : 1 ≤ 32) ha, Res.bind_raised],
        by omega, rfl, rfl, h⟩)

/-- The symbol of a match is one of the store's. -/
theorem lookup_mem {t : TreeStore} {L c : Nat} {sym : BitVec 9} (h : t.lookup L c = some sym) : sym ∈ t.symsAt L := by
  simp only [TreeStore.lookup] at h
  split at h
  · exact List.mem_of_getElem? h
  · cases h

/-! ## HT.BUILD -/

theorem symsOf_lt (L : Nat) (ls : List (BitVec 8)) : ∀ first, first + ls.length ≤ 512 →
    ∀ sym ∈ symsOf L first ls, first ≤ sym.toNat ∧ sym.toNat < first + ls.length := by
  induction ls with
  | nil => intro first _ sym h; simp [symsOf] at h
  | cons l rest ih =>
    intro first hf sym h
    simp only [List.length_cons] at hf ⊢
    have hrec := ih (first + 1) (by omega)
    simp only [symsOf] at h
    split at h
    · rcases List.mem_cons.mp h with rfl | h
      · simp only [BitVec.toNat_ofNat]; rw [Nat.mod_eq_of_lt (by omega)]; omega
      · have := hrec sym h; omega
    · have := hrec sym h; omega

@[simp] theorem buildTree_built (ls : List (BitVec 8)) : (buildTree ls).built = true := rfl

/-- `SYMS[L]` of a built tree. -/
theorem buildTree_symsAt (ls : List (BitVec 8)) {L : Nat} (h : L < 16) :
    (buildTree ls).symsAt L = if L = 0 then [] else symsOf L 0 ls := by
  simp [TreeStore.symsAt, buildTree, h]

/-- Past length 15 there are no codes. -/
theorem symsAt_big (t : TreeStore) {L : Nat} (h : 16 ≤ L) : t.symsAt L = [] := by
  simp [TreeStore.symsAt, h]

/-- `COUNT[L]` of a built tree. -/
theorem buildTree_countAt (ls : List (BitVec 8)) {L : Nat} (h : L < 16) :
    (buildTree ls).countAt L = countOf ls L := by
  simp only [TreeStore.countAt, buildTree_symsAt ls h, countOf]; split <;> rfl

/-- The symbols of a built tree are below its NUMBER_OF_SYMBOLS (41_huffman_tree_decoder.md R158). -/
theorem buildTree_symbolsBelow {ls : List (BitVec 8)} {n : Nat} (h : ls.length ≤ n) (hn : ls.length ≤ 512) :
    (buildTree ls).SymbolsBelow n := by
  intro L sym hs
  by_cases hL : L < 16
  · rw [buildTree_symsAt ls hL] at hs
    split at hs
    · simp at hs
    · have := symsOf_lt L ls 0 (by omega) sym hs; omega
  · rw [symsAt_big _ (by omega)] at hs; simp at hs

/-- HT.BUILD with a length above 15 (41_huffman_tree_decoder.md R152), however many there are. -/
theorem htBuild_raised {t : TreeId} {ls : List (BitVec 8)} (s : State) (h : ∃ l ∈ ls, 15 < l.toNat) :
    htBuild t ls s = .raised .invalidCodeLengths s := by
  simp only [htBuild]
  rw [if_pos]
  simpa only [List.any_eq_true, decide_eq_true_eq] using h

/-- HT.BUILD with lengths of at most 15: the tree of the lengths, or, where NUMBER_OF_SYMBOLS cannot count them, a free
tree (log 40). -/
theorem htBuild_of_le {t : TreeId} {ls : List (BitVec 8)} (s : State) (h : ∀ l ∈ ls, l.toNat ≤ 15) :
    htBuild t ls s = if ls.length < 512 then .ok () (s.setTree t (buildTree ls))
      else .ok () (takeFree (s.setTree t (freeTree s))) := by
  simp only [htBuild]
  rw [if_neg]
  simp only [List.any_eq_true, decide_eq_true_eq, not_exists, not_and]
  intro l hl; have := h l hl; simp only [Config.maxCodeSize]; omega

/-- HT.BUILD with fewer than 512 lengths of at most 15. -/
theorem htBuild_ok {t : TreeId} {ls : List (BitVec 8)} (s : State) (h : ∀ l ∈ ls, l.toNat ≤ 15) (hn : ls.length < 512) :
    htBuild t ls s = .ok () (s.setTree t (buildTree ls)) := by
  rw [htBuild_of_le s h, if_pos hn]

end Sys2Proof.Machine
end

