-- ==== Sys2Proof/Tests/Slice0.lean ====
section
/-! SUPPORT. The model's own tests. Expected values come from the vectors of spec/95_test_vectors.md (the id in the
docstring) or from hand calculation by the rule named. Below the tests: a witness for every clause of the obligations
that has hypotheses. -/

namespace Sys2Proof.Tests

open Sys2Proof Sys2Proof.Machine

/-! ## Helpers -/

/-- The reset state with these bytes in IN and the bit reader at their start. -/
def inp (bytes : List Byte) : State :=
  { State.reset with
    inMem := ⟨(List.range bytes.length).zip bytes, 0⟩
    inSize := BitVec.ofNat 32 bytes.length, byteStreamSize := BitVec.ofNat 32 bytes.length }

/-- The bit reader's three registers. -/
def rd (buf : BitVec 32) (size : BitVec 6) (off : Word) (s : State) : State :=
  { s with bitBuffer := buf, bitBufferSize := size, byteStreamOffset := off }

/-- These bytes written to OUT, and room for `cap` in all. -/
def outp (bytes : List Byte) (cap : Word) (s : State) : State :=
  { s with
    outMem := ⟨(List.range bytes.length).zip bytes, 0⟩
    outOffset := BitVec.ofNat 32 bytes.length, outCapacity := cap }

/-- What an outcome's next state shows. -/
def see {α : Type} (f : State → α) (x : Host.Outcome State Fault Refusal) : Option α :=
  match x with
  | .next t => some (f t)
  | _ => none

/-- Why an outcome is no next state. -/
def why (x : Host.Outcome State Fault Refusal) : Option Refusal :=
  match x with
  | .refused r => some r
  | _ => none

/-- Result, buffer, buffer size, offset. -/
def seeReader (t : State) : Nat × BitVec 32 × BitVec 6 × Word :=
  (t.unitResult, t.bitBuffer, t.bitBufferSize, t.byteStreamOffset)

/-- Sequencer state and error code. -/
def seeError (t : State) : SeqState × BitVec 4 := (t.seqState, t.errorCode)

/-- The listed bytes of OUT, and OUT_OFFSET. -/
def seeOut (t : State) : List Byte × Word := (t.outMem.cells.map Prod.snd, t.outOffset)

/-- Data of the vectors B1 to B16. -/
def b4 : State := inp [0xb5, 0x3c, 0xf0, 0x0f]

/-- Data of the vectors B17 to B19. -/
def b8 : State := inp [0xb5, 0x3c, 0xf0, 0x0f, 0xb5, 0x3c, 0xf0, 0x0f]

/-! ## Well-formedness: an ill-formed term for each check -/

theorem test_wf_refuses_zhdrBadcm : Instr.wf (.zhdrBadcm 8 0 0 0 0) = false := by decide

theorem test_wf_refuses_fixlit7 : Instr.wf (.fixlit7 24) = false := by decide

theorem test_wf_refuses_fixlit8a_low : Instr.wf (.fixlit8a 47) = false := by decide

theorem test_wf_refuses_fixlit8a_high : Instr.wf (.fixlit8a 192) = false := by decide

theorem test_wf_refuses_fixlit8b_low : Instr.wf (.fixlit8b 191) = false := by decide

theorem test_wf_refuses_fixlit8b_high : Instr.wf (.fixlit8b 200) = false := by decide

theorem test_wf_refuses_fixlit9 : Instr.wf (.fixlit9 399) = false := by decide

theorem test_wf_refuses_fixdist5 : Instr.wf (.fixdist5 30) = false := by decide

theorem test_wf_refuses_htBuild_empty : Instr.wf (.htBuild .pre []) = false := by decide

theorem test_wf_refuses_htBuild_long : Instr.wf (.htBuild .pre (List.replicate 289 1)) = false := by decide +kernel

theorem test_wf_refuses_lzCopy_short : Instr.wf (.lzCopy 2 1) = false := by decide

theorem test_wf_refuses_lzCopy_long : Instr.wf (.lzCopy 259 1) = false := by decide

theorem test_wf_refuses_lzCopy_near : Instr.wf (.lzCopy 3 0) = false := by decide

theorem test_wf_refuses_lzCopy_far : Instr.wf (.lzCopy 3 32769) = false := by decide

theorem test_wf_accepts_bounds :
    (Instr.fixlit7 23).wf = true ∧ (Instr.fixlit8a 191).wf = true ∧ (Instr.fixlit8b 199).wf = true ∧
      (Instr.fixlit9 511).wf = true ∧ (Instr.fixdist5 29).wf = true ∧ (Instr.lzCopy 258 32768).wf = true := by decide

/-! ## Decoding: a word for every constructor, written out from 30_encoding.md -/

/-- R92: CM in bits 3:0, CINFO in 7:4, FCHECK in 12:8, FDICT in 13, FLEVEL in 15:14. -/
theorem test_decode_zhdr :
    decode .zhdr16 0b10_0_11100_0111_1000 = .ok (.zhdr 0b111 0b11100 0b10) ∧
    decode .zhdr16 0b10_1_11100_0111_1000 = .ok (.zhdrFdict 0b111 0b11100 0b10) ∧
    decode .zhdr16 0b00_1_11100_1001_1000 = .ok (.zhdrBadwindow 0b001 0b11100 1 0) ∧
    decode .zhdr16 0b11_0_00001_0111_1001 = .ok (.zhdrBadcm 0b1001 0b0111 1 0 0b11) := ⟨rfl, rfl, rfl, rfl⟩

/-- R94: last_block_flag in bit 0, block_type in 2:1. -/
theorem test_decode_bhdr :
    decode .bhdr3 0b000 = .ok (.bhdrStored false) ∧ decode .bhdr3 0b001 = .ok (.bhdrStored true) ∧
    decode .bhdr3 0b010 = .ok (.bhdrFixed false) ∧ decode .bhdr3 0b011 = .ok (.bhdrFixed true) ∧
    decode .bhdr3 0b100 = .ok (.bhdrDynamic false) ∧ decode .bhdr3 0b101 = .ok (.bhdrDynamic true) ∧
    decode .bhdr3 0b110 = .ok (.bhdrReserved false) ∧ decode .bhdr3 0b111 = .ok (.bhdrReserved true) :=
  ⟨rfl, rfl, rfl, rfl, rfl, rfl, rfl, rfl⟩

/-- R96 (V3), R98 (P3), R100, R102 (P1). -/
theorem test_decode_fields :
    decode .stored32 0xfffc0003 = .ok (.stored 0x0003 0xfffc) ∧
    decode .dynhdr14 0b1110_00011_00100 = .ok (.dynhdr 4 3 14) ∧
    decode .prelen3 0b100 = .ok (.prelen 4) ∧
    decode .trailer32 0x055b0187 = .ok (.trailer 0x055b 0x0187) := ⟨rfl, rfl, rfl, rfl⟩

/-- R108. -/
theorem test_decode_clsym :
    decode .clsym5 0 = .ok (.clLen 0) ∧ decode .clsym5 15 = .ok (.clLen 15) ∧ decode .clsym5 16 = .ok .clRep ∧
    decode .clsym5 17 = .ok .clZrep3 ∧ decode .clsym5 18 = .ok .clZrep11 ∧
    decode .clsym5 19 = .error (.noElement .clsym5 19) := ⟨rfl, rfl, rfl, rfl, rfl, rfl⟩

/-- R110. -/
theorem test_decode_litlen :
    decode .litlen9 0x41 = .ok (.lit 0x41) ∧ decode .litlen9 255 = .ok (.lit 255) ∧ decode .litlen9 256 = .ok .eob ∧
    decode .litlen9 286 = .ok .litlenRsvd286 ∧ decode .litlen9 287 = .ok .litlenRsvd287 ∧
    decode .litlen9 288 = .error (.noElement .litlen9 288) := ⟨rfl, rfl, rfl, rfl, rfl, rfl⟩

/-- R110, R112: LEN.k is symbol 257 + k. -/
theorem test_decode_len :
    decode .litlen9 257 = .ok .len0 ∧
    decode .litlen9 258 = .ok .len1 ∧
    decode .litlen9 259 = .ok .len2 ∧
    decode .litlen9 260 = .ok .len3 ∧
    decode .litlen9 261 = .ok .len4 ∧
    decode .litlen9 262 = .ok .len5 ∧
    decode .litlen9 263 = .ok .len6 ∧
    decode .litlen9 264 = .ok .len7 ∧
    decode .litlen9 265 = .ok .len8 ∧
    decode .litlen9 266 = .ok .len9 ∧
    decode .litlen9 267 = .ok .len10 ∧
    decode .litlen9 268 = .ok .len11 ∧
    decode .litlen9 269 = .ok .len12 ∧
    decode .litlen9 270 = .ok .len13 ∧
    decode .litlen9 271 = .ok .len14 ∧
    decode .litlen9 272 = .ok .len15 ∧
    decode .litlen9 273 = .ok .len16 ∧
    decode .litlen9 274 = .ok .len17 ∧
    decode .litlen9 275 = .ok .len18 ∧
    decode .litlen9 276 = .ok .len19 ∧
    decode .litlen9 277 = .ok .len20 ∧
    decode .litlen9 278 = .ok .len21 ∧
    decode .litlen9 279 = .ok .len22 ∧
    decode .litlen9 280 = .ok .len23 ∧
    decode .litlen9 281 = .ok .len24 ∧
    decode .litlen9 282 = .ok .len25 ∧
    decode .litlen9 283 = .ok .len26 ∧
    decode .litlen9 284 = .ok .len27 ∧
    decode .litlen9 285 = .ok .len28 :=
  ⟨rfl, rfl, rfl, rfl, rfl, rfl, rfl, rfl, rfl, rfl, rfl, rfl, rfl, rfl, rfl, rfl, rfl, rfl, rfl, rfl, rfl, rfl, rfl, rfl, rfl, rfl, rfl, rfl, rfl⟩

/-- R116: DIST.j is symbol j. -/
theorem test_decode_dist :
    decode .dist5 0 = .ok .dist0 ∧
    decode .dist5 1 = .ok .dist1 ∧
    decode .dist5 2 = .ok .dist2 ∧
    decode .dist5 3 = .ok .dist3 ∧
    decode .dist5 4 = .ok .dist4 ∧
    decode .dist5 5 = .ok .dist5 ∧
    decode .dist5 6 = .ok .dist6 ∧
    decode .dist5 7 = .ok .dist7 ∧
    decode .dist5 8 = .ok .dist8 ∧
    decode .dist5 9 = .ok .dist9 ∧
    decode .dist5 10 = .ok .dist10 ∧
    decode .dist5 11 = .ok .dist11 ∧
    decode .dist5 12 = .ok .dist12 ∧
    decode .dist5 13 = .ok .dist13 ∧
    decode .dist5 14 = .ok .dist14 ∧
    decode .dist5 15 = .ok .dist15 ∧
    decode .dist5 16 = .ok .dist16 ∧
    decode .dist5 17 = .ok .dist17 ∧
    decode .dist5 18 = .ok .dist18 ∧
    decode .dist5 19 = .ok .dist19 ∧
    decode .dist5 20 = .ok .dist20 ∧
    decode .dist5 21 = .ok .dist21 ∧
    decode .dist5 22 = .ok .dist22 ∧
    decode .dist5 23 = .ok .dist23 ∧
    decode .dist5 24 = .ok .dist24 ∧
    decode .dist5 25 = .ok .dist25 ∧
    decode .dist5 26 = .ok .dist26 ∧
    decode .dist5 27 = .ok .dist27 ∧
    decode .dist5 28 = .ok .dist28 ∧
    decode .dist5 29 = .ok .dist29 ∧
    decode .dist5 30 = .ok .distRsvd30 ∧ decode .dist5 31 = .ok .distRsvd31 :=
  ⟨rfl, rfl, rfl, rfl, rfl, rfl, rfl, rfl, rfl, rfl, rfl, rfl, rfl, rfl, rfl, rfl, rfl, rfl, rfl, rfl, rfl, rfl, rfl, rfl, rfl, rfl, rfl, rfl, rfl, rfl, rfl, rfl⟩

/-- R118: the first and last code of each row; R220: CTRL with START = 1. -/
theorem test_decode_fixcode :
    decode .fixlit7 0b0000000 = .ok (.fixlit7 0) ∧ decode .fixlit7 0b0010111 = .ok (.fixlit7 23) ∧
    decode .fixlit8 0b00110000 = .ok (.fixlit8a 48) ∧ decode .fixlit8 0b10111111 = .ok (.fixlit8a 191) ∧
    decode .fixlit8 0b11000000 = .ok (.fixlit8b 192) ∧ decode .fixlit8 0b11000111 = .ok (.fixlit8b 199) ∧
    decode .fixlit9 0b110010000 = .ok (.fixlit9 400) ∧ decode .fixlit9 0b111111111 = .ok (.fixlit9 511) ∧
    decode .fixdist5 0b11101 = .ok (.fixdist5 29) ∧
    decode .fixdist5 0b11110 = .error (.noElement .fixdist5 30) ∧
    decode .ctrl32 0x80000001 = .ok (.decompress 0x40000000) ∧
    decode .ctrl32 2 = .error (.noElement .ctrl32 2) :=
  ⟨rfl, rfl, rfl, rfl, rfl, rfl, rfl, rfl, rfl, rfl, rfl, rfl⟩

/-- The host's word probe: symbol words, a header, and a number wider than its format. -/
theorem test_table_words :
    decodeTableWord 16 0x0008 = some (.zhdr 0 0 0) ∧ decodeTableWord 16 0x2008 = some (.zhdrFdict 0 0 0) ∧
    decodeTableWord 8 0x88 = some (.zhdrBadwindow 0 0 0 0) ∧ decodeTableWord 16 0x11d = some .len28 ∧
    decodeTableWord 8 0x1d = some .dist29 ∧ decodeTableWord 32 0x1 = some (.decompress 0) ∧
    decode .bhdr3 8 = .error (.tooWide .bhdr3 8) := ⟨rfl, rfl, rfl, rfl, rfl, rfl, rfl⟩

/-! ## The bit reader (40_bit_stream_reader.md; vectors B0 to B22) -/

/-- R130, the example: IN_SIZE = 11, BR.INIT(2) gives POS = 16 and 72 bits remaining. -/
theorem test_brInit :
    see (fun t => (t.pos, bitsLeft t)) (exec (.brInit 2) (inp (List.replicate 11 0))) = some (16, 72) := by decide

/-- An offset past IN_SIZE has no result (log 14). -/
theorem test_brInit_pastEnd :
    see (fun t => (t.bitBuffer, t.bitBufferSize, t.byteStreamSize, t.freeCount)) (exec (.brInit 5) (rd 0b101 3 1 b4))
      = some (0, 0, 4, 1) := rfl

/-- B10. -/
theorem test_brRead : see seeReader (exec (.brRead 12) b4) = some (0, 0x3cb5, 16, 2) := by decide

/-- B12. -/
theorem test_brRead_short : see seeError (exec (.brRead 1) (rd 0 0 4 b4)) = some (.error, 3) := by decide

/-- B1. -/
theorem test_brGetValue : see seeReader (exec (.brGetValue 3) b4) = some (5, 0b10110, 5, 1) := by decide

/-- B17, second operation. -/
theorem test_brGetValue_refills :
    see seeReader (exec (.brGetValue 25) (rd 0b1011010 7 1 b8)) = some (0x1f81e5a, 0b000011, 6, 4) := by decide

/-- B19, second operation: refused. -/
theorem test_brGetValue_beyond32 : why (exec (.brGetValue 26) (rd 0b1 1 1 b8)) = some .refillBeyond32 := by decide

/-- U9: with IN_SIZE lowered to 1, the byte read at offset 1 is not the one that stands there (log 35); the buffer's size
and the cursor are as R132 has them. -/
theorem test_brRead_pastInput :
    see (fun t => (t.bitBufferSize, t.byteStreamOffset)) (exec (.brRead 8) { rd 0 0 1 b4 with inSize := 1 }) = some (8, 2) ∧
      memReadIn 1 { b4 with inSize := 1 } = Config.beyondIn 0 1 1 := ⟨by decide, rfl⟩

/-- B14. -/
theorem test_brGetValue_33 : see seeError (exec (.brGetValue 33) b4) = some (.error, 6) := by decide

/-- B16, second operation. -/
theorem test_brGetValue_short : see seeError (exec (.brGetValue 26) (rd 0b1 1 1 b4)) = some (.error, 3) := by decide

/-- B5. -/
theorem test_brFlush : see seeReader (exec .brFlush (rd 0b0011 4 2 b4)) = some (0, 0, 0, 2) := by decide

/-- B20. -/
theorem test_brReadByte : see seeReader (exec .brReadByte (rd 0 0 3 b4)) = some (15, 0, 0, 4) := by decide

/-- B21, last operation. -/
theorem test_brRemainingBytes : see seeReader (exec .brRemainingBytes (rd 0 0 1 b4)) = some (3, 0, 0, 1) := by decide

/-! ## The Huffman tree decoder (41_huffman_tree_decoder.md; vectors H1 to H7) -/

/-- H1: the counts, the first codes and the symbols of lengths 1 to 3. -/
theorem test_htBuild :
    see (fun t => (List.range 4).map fun L =>
        (t.dynLitTree.countAt L, t.dynLitTree.firstCodeAt L, (t.dynLitTree.symsAt L).map BitVec.toNat))
      (exec (.htBuild .dynLit [2, 1, 3, 3]) State.reset)
      = some [(0, 0, []), (1, 0, [1]), (1, 2, [0]), (2, 6, [2, 3])] := by decide

/-- Outside the range of R150 the pseudocode of R152 runs: no symbol has a code (log 40). -/
theorem test_htBuild_empty :
    see (fun t => (t.unitError, t.preTree.built, t.preTree.numberOfSymbols, t.preTree.countAt 1))
      (step { State.reset with inputs := [.host (.issue (.htBuild .pre []))] }) = some (0, true, 0, 0) := by decide

/-- H7. -/
theorem test_htBuild_raises : see seeError (exec (.htBuild .dynLit [16]) State.reset) = some (.error, 5) := by decide

/-- H2, third symbol: bits 1 1 0 at POS 3 are C = 2. -/
theorem test_htDecodeSymbol :
    see (fun t => (t.unitResult, t.pos))
      (exec (.htDecodeSymbol .pre) (rd 0b11011 5 1 { inp [0xda, 0x01] with preTree := buildTree [2, 1, 3, 3] }))
      = some (2, 6) := by decide

/-- H3. -/
theorem test_htDecodeSymbol_corrupted :
    see (fun t => (seeError t, t.pos))
      (exec (.htDecodeSymbol .pre) { inp [0xff, 0xff] with preTree := buildTree [1, 0, 0, 0] })
      = some ((.error, 9), 15) := by decide

/-- H4. -/
theorem test_htDecodeSymbol_short :
    see (fun t => (seeError t, t.pos))
      (exec (.htDecodeSymbol .pre) { inp [0xff] with preTree := buildTree [1, 0, 0, 0] })
      = some ((.error, 3), 8) := by decide

/-- 10_state.md R30: a store that is not built is refused. -/
theorem test_htDecodeSymbol_unbuilt : why (exec (.htDecodeSymbol .dynDist) b4) = some (.treeNotBuilt .dynDist) := by decide

/-- H6: an over-subscribed tree decodes what it can reach. -/
theorem test_htDecodeSymbol_oversubscribed :
    see (fun t => t.unitResult) (exec (.htDecodeSymbol .pre) { inp [0x01] with preTree := buildTree [1, 1, 1] })
      = some 1 := by decide

/-- R144: the eight bits from POS 19 are the fixed code 113, literal 0x41; the row is FIXLIT.8A. -/
theorem test_codeInstr :
    codeInstr .fixLit (rd 0b01110 5 1 (inp [0x73, 0x04])) = .fixlit8a 113 := by decide

/-- R144: the row's effect. -/
theorem test_fixlit8a :
    see seeReader (exec (.fixlit8a 113) (rd 0b01110 5 1 (inp [0x73, 0x04]))) = some (0x41, 0, 5, 2) := by decide

/-- R118: code 2 of 7 bits is symbol 258. -/
theorem test_fixlit7 : see seeReader (exec (.fixlit7 2) (inp [0x20])) = some (258, 0, 1, 1) := by decide

/-- R118 (V25): code 198 is symbol 286. -/
theorem test_fixlit8b : see seeReader (exec (.fixlit8b 198) (inp [0x63])) = some (286, 0, 0, 1) := by decide

/-- R118: code 511 is symbol 255. -/
theorem test_fixlit9 : see seeReader (exec (.fixlit9 511) (inp [0xff, 0x01])) = some (255, 0, 7, 2) := by decide

/-- R118: distance code 29 is symbol 29. -/
theorem test_fixdist5 : see seeReader (exec (.fixdist5 29) (inp [0x17])) = some (29, 0, 3, 1) := by decide

/-! ## Header, block headers, stored block (42_deflate_framing.md) -/

/-- V1's first element. -/
theorem test_zhdr :
    see (fun t => (t.seqState, t.pos, t.outOffset)) (exec (.zhdr 7 1 0) (inp [0x78, 0x01]))
      = some (.expectBlockHeader, 16, 0) := by decide

/-- V18: no byte 1. -/
theorem test_zhdr_short : see seeError (exec (.zhdr 7 0 0) (inp [0x78])) = some (.error, 3) := by decide

/-- V19b: byte 0 alone decides. -/
theorem test_zhdrBadwindow : see seeError (exec (.zhdrBadwindow 0 0 0 0) (inp [0x88])) = some (.error, 2) := by decide

/-- V12. -/
theorem test_zhdrFdict : see seeError (exec (.zhdrFdict 7 0 0) (inp [0x78, 0x20])) = some (.error, 2) := by decide

/-- V19: byte 0 alone decides. -/
theorem test_zhdrBadcm : see seeError (exec (.zhdrBadcm 7 7 0 0 0) (inp [0x77])) = some (.error, 1) := by decide

/-- What a block header shows. -/
def seeBlock (t : State) : SeqState × Bool × BitVec 2 × Nat := (t.seqState, t.lastBlockFlag, t.blockType, t.pos)

/-- V3's block header byte 0x01. -/
theorem test_bhdrStored : see seeBlock (exec (.bhdrStored true) (inp [0x01])) = some (.storedBlock, true, 0, 3) := by decide

/-- V1's byte 0x73. -/
theorem test_bhdrFixed : see seeBlock (exec (.bhdrFixed true) (inp [0x73])) = some (.fixedHuffmanBlock, true, 1, 3) := by
  decide

/-- P3's byte 0x25. -/
theorem test_bhdrDynamic :
    see seeBlock (exec (.bhdrDynamic true) (inp [0x25])) = some (.dynamicHuffmanBlock, true, 2, 3) := by decide

/-- V16b. -/
theorem test_bhdrReserved : see seeError (exec (.bhdrReserved false) (inp [0x06])) = some (.error, 2) := by decide

/-- V3: the PAD of 5 bits, LEN = 3, and the three bytes. -/
theorem test_stored :
    see (fun t => (seeOut t, t.seqState, t.pos))
      (exec (.stored 3 0xfffc) { outp [] 3 (rd 0 5 1 (inp [0x01, 0x03, 0x00, 0xfc, 0xff, 0x61, 0x62, 0x63])) with
        seqState := .storedBlock, lastBlockFlag := true })
      = some (([0x61, 0x62, 0x63], 3), .trailer, 64) := by decide

/-- V38: the check value is tested before the space. -/
theorem test_stored_mismatch :
    see seeError (exec (.stored 3 0xfefc) (inp [0x03, 0x00, 0xfc, 0xfe, 0x61, 0x62, 0x63])) = some (.error, 4) := by decide

/-- V13: too little input is InsufficientSpace. -/
theorem test_stored_shortInput :
    see seeError (exec (.stored 5 0xfffa) (outp [] 10 (inp [0x05, 0x00, 0xfa, 0xff, 0x61, 0x62]))) = some (.error, 10) := by
  decide

/-! ## The tree description (42_deflate_framing.md R181 to R188) -/

/-- P3's DYNHDR. -/
theorem test_dynhdr :
    see (fun t => (t.numLiteralCodes, t.numDistanceCodes, t.numCodeLengthCodes, t.pos))
      (exec (.dynhdr 4 3 14) (inp [0x64, 0x38])) = some (261, 4, 18, 14) := by decide

/-- V28: 31 distance codes. -/
theorem test_dynhdr_illegal : see seeError (exec (.dynhdr 0 30 0) (inp [0xc0, 0x03])) = some (.error, 6) := by decide

/-- P3's third PRELEN: the length of symbol 18. -/
theorem test_prelen :
    see (fun t => (t.preLengths[18], t.preLengths[16], t.place))
      (exec (.prelen 2) { inp [0x02] with
        place := .prelen 2, numCodeLengthCodes := 18, preLengths := (Vector.replicate 19 0).set 16 4 })
      = some (2, 4, .prelen 3) := by decide

/-- V29's fourth and last PRELEN: PRE_TREE gets the codes 0 = `0` and 16 = `1`. -/
theorem test_prelen_last :
    see (fun t => ((t.preTree.symsAt 1).map BitVec.toNat, t.preTree.built, t.clIndex, t.place))
      (exec (.prelen 1) { inp [0x01] with
        place := .prelen 3, numCodeLengthCodes := 4, preLengths := (Vector.replicate 19 0).set 16 1 })
      = some ([0, 16], true, 0, .clCode) := by decide

/-- P3: entry 97 = 3. -/
theorem test_clLen :
    see (fun t => (t.codeLengths[97], t.clIndex, t.place))
      (exec (.clLen 3) { State.reset with numLiteralCodes := 261, numDistanceCodes := 4, clIndex := 97 })
      = some (3, 98, .clCode) := by decide +kernel

/-- P3: entries 98, 99, 100 = 3. -/
theorem test_clRep :
    see (fun t => (t.codeLengths[98], t.codeLengths[100], t.codeLengths[101], t.clIndex))
      (exec .clRep { inp [0x00] with
        numLiteralCodes := 261, numDistanceCodes := 4, clIndex := 98
        codeLengths := (Vector.replicate 316 7).set 97 3 })
      = some (3, 3, 7, 101) := by decide +kernel

/-- V29: no previous length. -/
theorem test_clRep_first :
    see seeError (exec .clRep { inp [0x00] with numLiteralCodes := 257, numDistanceCodes := 1 }) = some (.error, 6) := by
  decide

/-- P3: entries 257, 258, 259 = 0. -/
theorem test_clZrep3 :
    see (fun t => (t.codeLengths[256], t.codeLengths[257], t.codeLengths[259], t.codeLengths[260], t.clIndex))
      (exec .clZrep3 { inp [0x00] with
        numLiteralCodes := 261, numDistanceCodes := 4, clIndex := 257, codeLengths := Vector.replicate 316 7 })
      = some (7, 0, 0, 7, 260) := by decide +kernel

/-- V30b: 138 + 121 is one more than 258. -/
theorem test_clZrep11_overflow :
    see seeError (exec .clZrep11 { inp [0x6e] with numLiteralCodes := 257, numDistanceCodes := 1, clIndex := 138 })
      = some (.error, 6) := by decide

/-- V31: 138 + 120 is exactly 258, and DYNTREES comes next. -/
theorem test_clZrep11 :
    see (fun t => (t.clIndex, t.place))
      (exec .clZrep11 { inp [0x6d] with numLiteralCodes := 257, numDistanceCodes := 1, clIndex := 138 })
      = some (258, .dyntrees) := by decide +kernel

/-- V31. -/
theorem test_dyntrees_noEnd :
    see seeError (exec .dyntrees { State.reset with numLiteralCodes := 257, numDistanceCodes := 1 }) = some (.error, 7) := by
  decide

/-- V9: literal codes 253 to 256 and four distance codes, all of length 2. -/
theorem test_dyntrees :
    see (fun t => ((t.dynLitTree.symsAt 2).map BitVec.toNat, (t.dynDistTree.symsAt 2).map BitVec.toNat, t.place))
      (exec .dyntrees { State.reset with
        numLiteralCodes := 257, numDistanceCodes := 4
        codeLengths := Vector.ofFn fun i => if 253 ≤ i.val ∧ i.val ≤ 260 then 2 else 0 })
      = some ([253, 254, 255, 256], [0, 1, 2, 3], .litCode) := by decide +kernel

/-! ## The symbols of a Huffman block (43_lz77_expander.md) -/

/-- R202, the example. -/
theorem test_lit : see seeOut (exec (.lit 0x41) (outp [] 1 State.reset)) = some ([0x41], 1) := by decide

/-- V23. -/
theorem test_lit_full : see seeError (exec (.lit 0x41) (outp [] 0 State.reset)) = some (.error, 10) := by decide

/-- R230: a dynamic block's trees are discarded at its end. -/
theorem test_eob :
    see (fun t => (t.seqState, t.dynLitTree.built))
      (exec .eob { State.reset with blockType := 2, lastBlockFlag := true, dynLitTree := buildTree [1] })
      = some (.trailer, false) := by decide

/-- V25, V25b; the guard of R208. -/
theorem test_reserved :
    see seeError (exec .litlenRsvd286 State.reset) = some (.error, 8) ∧
    see seeError (exec .litlenRsvd287 State.reset) = some (.error, 8) ∧
    see seeError (exec .distRsvd30 State.reset) = some (.error, 8) ∧
    see seeError (exec .distRsvd31 State.reset) = some (.error, 8) := by decide

/-- R112: the longest length each row reaches, that is with every extra bit 1 (L2 to L6). -/
theorem test_len :
    ([.len0, .len1, .len2, .len3, .len4, .len5, .len6, .len7, .len8, .len9, .len10, .len11, .len12, .len13, .len14, .len15, .len16, .len17, .len18, .len19, .len20, .len21, .len22, .len23, .len24, .len25, .len26, .len27, .len28] : List Instr).map
      (fun i => see (fun t => t.length.toNat) (exec i (inp [0xff])))
    = ([3, 4, 5, 6, 7, 8, 9, 10, 12, 14, 16, 18, 22, 26, 30, 34, 42, 50, 58, 66, 82, 98, 114, 130, 162, 194, 226, 258, 258] : List Nat).map some := by decide

/-- R112: the shortest length each row reaches, that is with every extra bit 0 (L1 to L6). -/
theorem test_len_zero :
    ([.len0, .len1, .len2, .len3, .len4, .len5, .len6, .len7, .len8, .len9, .len10, .len11, .len12, .len13, .len14, .len15, .len16, .len17, .len18, .len19, .len20, .len21, .len22, .len23, .len24, .len25, .len26, .len27, .len28] : List Instr).map
      (fun i => see (fun t => t.length.toNat) (exec i (inp [0x00])))
    = ([3, 4, 5, 6, 7, 8, 9, 10, 11, 13, 15, 17, 19, 23, 27, 31, 35, 43, 51, 59, 67, 83, 99, 115, 131, 163, 195, 227, 258] : List Nat).map some := by decide

/-- R114: the farthest distance each row reaches (L7 to L11). -/
theorem test_dist :
    ([.dist0, .dist1, .dist2, .dist3, .dist4, .dist5, .dist6, .dist7, .dist8, .dist9, .dist10, .dist11, .dist12, .dist13, .dist14, .dist15, .dist16, .dist17, .dist18, .dist19, .dist20, .dist21, .dist22, .dist23, .dist24, .dist25, .dist26, .dist27, .dist28, .dist29] : List Instr).map
      (fun i => see (fun t => t.distance.toNat) (exec i (inp [0xff, 0xff])))
    = ([1, 2, 3, 4, 6, 8, 12, 16, 24, 32, 48, 64, 96, 128, 192, 256, 384, 512, 768, 1024, 1536, 2048, 3072, 4096, 6144, 8192, 12288, 16384, 24576, 32768] : List Nat).map some := by decide

/-- R114: the nearest distance each row reaches (L7 to L11). -/
theorem test_dist_zero :
    ([.dist0, .dist1, .dist2, .dist3, .dist4, .dist5, .dist6, .dist7, .dist8, .dist9, .dist10, .dist11, .dist12, .dist13, .dist14, .dist15, .dist16, .dist17, .dist18, .dist19, .dist20, .dist21, .dist22, .dist23, .dist24, .dist25, .dist26, .dist27, .dist28, .dist29] : List Instr).map
      (fun i => see (fun t => t.distance.toNat) (exec i (inp [0x00, 0x00])))
    = ([1, 2, 3, 4, 5, 7, 9, 13, 17, 25, 33, 49, 65, 97, 129, 193, 257, 385, 513, 769, 1025, 1537, 2049, 3073, 4097, 6145, 8193, 12289, 16385, 24577] : List Nat).map some := by decide

/-- L14: a copy longer than its distance reads what it has written. -/
theorem test_matchCopy :
    see seeOut (exec .matchCopy { outp [0x61, 0x62, 0x63] 8 State.reset with length := 5, distance := 3 })
      = some ([0x61, 0x62, 0x63, 0x61, 0x62, 0x63, 0x61, 0x62], 8) := by decide

/-- V37: the distance is tested before the space. -/
theorem test_matchCopy_far :
    see seeError (exec .matchCopy { outp [0x41] 1 State.reset with length := 3, distance := 2 }) = some (.error, 6) := by
  decide

/-- L12 (S6). -/
theorem test_lzCopy :
    see seeOut (exec (.lzCopy 5 1) (outp [0x41] 6 State.reset)) = some (List.replicate 6 0x41, 6) := by decide

/-- R212 with a LENGTH below the range of R34, issued by the host (log 40). -/
theorem test_lzCopy_short :
    see seeOut (step { outp [0x41] 6 State.reset with inputs := [.host (.issue (.lzCopy 2 1))] })
      = some ([0x41, 0x41, 0x41], 3) := by decide

/-- L19. -/
theorem test_lzCopy_space : see seeError (exec (.lzCopy 3 2) (outp [0x61, 0x62] 4 State.reset)) = some (.error, 10) := by
  decide

/-- R210, R212: OUT_OFFSET grows by LENGTH at DISTANCE = 0 too; OUT[0] is kept. -/
theorem test_matchCopy_noDistance :
    see (fun t => (t.outOffset, t.outMem.lookup 0)) (exec .matchCopy { outp [0x41] 9 State.reset with length := 3 })
      = some (4, some 0x41) := rfl

/-- 60_exceptions.md R262: the kind that ended the call stays, whatever a bare operation raises. -/
theorem test_error_kept :
    see (fun t => (seeError t, t.unitError))
      (step { takeError .outOfData State.reset with inputs := [.host (.issue (.brRead 33))] })
      = some ((.error, 3), 6) := by decide

/-- 44_decompress_top.md R222: DONE is not left by a bare operation that raises. -/
theorem test_done_kept :
    see (fun t => (t.statusWord, t.outCountWord, t.outMem.lookup 0))
      (step { outp [0x41] 1 State.reset with
        seqState := .done, outCount := 1, inputs := [.host (.issue (.lzCopy 3 2))] })
      = some (2, 1, some 0x41) := by decide

/-! ## Checksum, trailer, start (44_decompress_top.md, 45_adler32_checksum.md) -/

/-- A1, the source's vector, and A2, A3. -/
theorem test_adler32 :
    adler32 [0x78, 0xda, 0xbd, 0x59, 0x6d, 0x8f, 0xdb, 0xb8, 0x11, 0xfe, 0x7c, 0xfa, 0x15, 0xc4, 0x7e, 0xb9] 0
      = 0x5101098c ∧
    adler32 [0x78, 0xda, 0xbd, 0x59, 0x6d, 0x8f, 0xdb, 0xb8, 0x11, 0xfe, 0x7c, 0xfa, 0x15, 0xc4, 0x7e, 0xb9] 1
      = 0x5111098d ∧ adler32 [] 1 = 1 := by decide

/-- R236, the example. -/
theorem test_adlerInit :
    see (fun t => (t.adlerLo, t.adlerHi, t.adlerChunk)) (exec (.adlerInit 0x00070001) State.reset) = some (1, 7, 0) := by
  decide

/-- R238, the example. -/
theorem test_adlerUpdate :
    see (fun t => (t.adlerLo, t.adlerHi, t.adlerChunk)) (exec (.adlerUpdate 0x41) { State.reset with adlerLo := 1 })
      = some (0x42, 0x42, 1) := by decide

/-- A6: the last byte of the worst chunk is absorbed without a wrap, then both sums are reduced:
1481280 mod 65521 = 39818 and 4294690200 mod 65521 = 50734. -/
theorem test_adlerUpdate_reduces :
    see (fun t => (t.adlerLo, t.adlerHi, t.adlerChunk)) (exec (.adlerUpdate 0xff)
      { State.reset with adlerLo := 1481025, adlerHi := 4293208920, adlerChunk := 5551 }) = some (39818, 50734, 0) := by decide

/-- A4, last operation. -/
theorem test_adlerFinal :
    see (fun t => t.unitResult) (exec .adlerFinal { State.reset with adlerLo := 0x42, adlerHi := 0x42 })
      = some 0x00420042 := by decide

/-- V1's trailer. -/
theorem test_trailer :
    see (fun t => (t.seqState, t.outCount, t.pos)) (exec (.trailer 0x0042 0x0042)
      (outp [0x41] 1 (rd 0 6 1 (inp [0x00, 0x00, 0x42, 0x00, 0x42])))) = some (.done, 1, 40) := by decide

/-- V33's trailer. -/
theorem test_trailer_mismatch :
    see seeError (exec (.trailer 0x0042 0x0043) (outp [0x41] 1 (inp [0x00, 0x42, 0x00, 0x43]))) = some (.error, 11) := by
  decide

/-- R284: a call starts after an error. -/
theorem test_decompress :
    see (fun t => (t.seqState, t.errorCode, t.byteStreamSize))
      (exec (.decompress 0) { State.reset with seqState := .error, errorCode := 6, inSize := 9 })
      = some (.header, 0, 9) := by decide

/-- 10_state.md R23 (a): with a smaller input the cursor is not left above it (log 19). -/
theorem test_decompress_cursor :
    ∃ t, exec (.decompress 0) { State.reset with byteStreamSize := 9, byteStreamOffset := 9, inSize := 0 } = .next t ∧
      t.byteStreamOffset.toNat = 0 :=
  ⟨_, rfl, Nat.le_zero.1 (freeOffsetIn_le _)⟩

/-- R286: START while BUSY is ignored. -/
theorem test_decompress_busy :
    see (fun t => t.seqState) (exec (.decompress 0) { State.reset with seqState := .trailer }) = some .trailer := by decide

/-! ## Steps -/

/-- V10: the step in HEADER. -/
theorem test_step_header : see seeError (step { inp [0x77, 0x01] with seqState := .header }) = some (.error, 1) := by decide

/-- R106: a symbol that a fixed block's code stands for goes to SYMBOL. -/
theorem test_step_symbol :
    see (fun t => (t.symbol, t.place)) (step { rd 0b01110 5 1 (inp [0x73, 0x04]) with
      seqState := .fixedHuffmanBlock, blockType := 1, place := .litCode }) = some (0x41, .litSym) := by decide

/-- R40: STATUS after reset, and a write of a read-only register. -/
theorem test_step_host :
    see (fun t => t.hostData) (step { State.reset with inputs := [.host (.readReg 1)] }) = some 0 ∧
    see (fun t => t.errorCode) (step { State.reset with inputs := [.host (.writeReg 2 7)] }) = some 0 := by decide

/-- R292: a load of IN while BUSY is refused. -/
theorem test_step_host_busy :
    why (step { State.reset with seqState := .header, inputs := [.host (.writeIn 0 1)] }) = some .hostAccessWhileBusy := by
  decide

/-- The host's word probe reaches the instruction: a header, LEN.9 with extra bit 1 (R206, the example), DIST.4 with
extra bit 1 (R208, the example), a stored block of no bytes, and START. -/
theorem test_withFetchWord :
    see (fun t => t.seqState) (step (State.reset.withFetchWord 16 0x9c78)) = some .expectBlockHeader ∧
    see (fun t => t.length) (step (State.reset.withFetchWord 16 266)) = some 13 ∧
    see (fun t => t.distance) (step (State.reset.withFetchWord 8 4)) = some 5 ∧
    see (fun t => t.seqState) (step (State.reset.withFetchWord 32 0xffff0000)) = some .expectBlockHeader ∧
    see (fun t => t.seqState) (step (State.reset.withFetchWord 32 1)) = some .header := by decide

/-! ## Witnesses: a state and operands that meet the hypotheses of each obligation, clause by clause -/

/-- ReaderOk of a concrete state, by computation. -/
theorem readerOk_of {s : State} (h : s.byteStreamOffset.toNat ≤ s.byteStreamSize.toNat ∧ s.bitBufferSize.toNat ≤ 7 ∧
    s.bitBufferSize.toNat ≤ 8 * s.byteStreamOffset.toNat ∧ s.bitBuffer.toNat < 2 ^ s.bitBufferSize.toNat ∧
    s.bitBuffer.toNat = fieldAt s s.pos s.bitBufferSize.toNat) : ReaderOk s :=
  ⟨⟨⟨h.1, by omega, h.2.2.1, h.2.2.2.1⟩, h.2.2.2.2⟩, h.2.1⟩

/-- R144 at POS 19: 5 bits buffered, 13 bits left. -/
def pos19 : State := rd 0b01110 5 1 (inp [0x73, 0x04])

theorem pos19_ok : ReaderOk pos19 := readerOk_of (by decide)

/-- One bit of the input left, and none. -/
def lastBit : State := rd 1 1 4 (inp [0xff, 0xff, 0xff, 0xff])

theorem lastBit_ok : ReaderOk lastBit := readerOk_of (by decide)

def spent : State := rd 0 0 4 (inp [0xff, 0xff, 0xff, 0xff])

theorem spent_ok : ReaderOk spent := readerOk_of (by decide)

/-- Exactly `n` bytes of input, none read. -/
theorem fresh_ok : ReaderOk b4 ∧ ReaderOk b8 := ⟨readerOk_of (by decide), readerOk_of (by decide)⟩

/-- A fixed block at R144's literal. -/
def inFixed : State := { pos19 with seqState := .fixedHuffmanBlock, blockType := 1, place := .litCode }

theorem inFixed_ok : ReaderOk inFixed := readerOk_of (by decide)

theorem inFixed_inv : Inv inFixed where
  inForm := by decide
  outForm := by decide
  bounds := inFixed_ok.inv.toReaderBounds
  reader := fun _ => ⟨inFixed_ok, by decide⟩
  room := by decide
  stored := by decide
  fixed := by decide
  dynamic := by decide
  place := fun _ h => absurd h (by decide)
  clean := by decide

/-- A call that has just started. -/
def inHeader : State := { inp [0x78, 0x01] with seqState := .header }

theorem inHeader_inv : Inv inHeader where
  inForm := by decide
  outForm := by decide
  bounds := .of_empty (by decide) rfl rfl
  reader := fun h => absurd h (by decide)
  room := by decide
  stored := by decide
  fixed := by decide
  dynamic := by decide
  place := fun h => absurd h (by decide)
  clean := by decide

/-- Two idle states that differ. -/
def idleOne : State := { inp [0x78, 0x01] with hostData := 1 }
def idleTwo : State := { inp [0x78, 0x01] with seqState := .done, outCount := 5, outMem := ⟨[(0, 7)], 3⟩ }

theorem idle_inv : Inv idleOne ∧ Inv idleTwo := by
  refine ⟨⟨?_, ?_, ?_, ?_, ?_, ?_, ?_, ?_, ?_, ?_⟩, ⟨?_, ?_, ?_, ?_, ?_, ?_, ?_, ?_, ?_, ?_⟩⟩ <;>
    first
      | decide
      | exact .of_empty (by decide) rfl rfl
      | exact fun h => absurd h (by decide)

theorem witness_DecodeOfEncode :
    (Instr.zhdrBadcm 15 15 31 1 3).wf = true ∧ encode (.zhdrBadcm 15 15 31 1 3) = some (.zhdr16, 0xffff) ∧
      Instr.brFlush.wf = true ∧ encode .brFlush = none := by decide

theorem witness_EncodeOfDecode : decode .litlen9 287 = .ok .litlenRsvd287 := rfl

theorem witness_OpcodeRowsDecode :
    ⟨"ZHDR.BADCM", .zhdr16, 0, 0, true⟩ ∈ opcodeRows ∧ 0xffff < 2 ^ Format.zhdr16.width ∧
      OpcodeRow.applies ⟨"ZHDR.BADCM", .zhdr16, 0, 0, true⟩ 0xffff = true := by decide

theorem witness_StepRunsDecodedInstruction :
    (inFixed.inputs = [] ∧ nextInstr inFixed = .instr (.fixlit8a 113)) ∧
    (∃ s : State, s.inputs = .tick :: [] ∧ nextInstr { s with inputs := [] } = .instr (.fixlit8a 113)) ∧
    (∃ s : State, s.inputs = [] ∧ nextInstr s = .raise .outOfData) ∧
    (∃ s : State, s.inputs = [] ∧ nextInstr s = .refuse .noElement) ∧
    (State.reset.inputs = [] ∧ nextInstr State.reset = .none) := by
  refine ⟨by decide, ⟨{ inFixed with inputs := [.tick] }, by decide, by decide⟩,
    ⟨{ State.reset with seqState := .header }, by decide, by decide⟩,
    ⟨{ State.reset with seqState := .dynamicHuffmanBlock, place := .clSym, preSymbol := 19 }, by decide, by decide⟩,
    by decide⟩

theorem witness_SymbolGoesToItsRegister :
    State.reset.inHuffmanBlock = false ∧ (takeError .outOfData inFixed).seqState = .error ∧
      inFixed.inHuffmanBlock = true ∧ inFixed.seqState ≠ .error ∧ inFixed.place = .litCode ∧
      { inFixed with place := Place.clCode }.place = .clCode ∧ { inFixed with place := Place.distCode }.place = .distCode ∧
      { inFixed with unitResult := 31 }.unitResult < 32 ∧ 32 ≤ { inFixed with unitResult := 32 }.unitResult ∧
      { inFixed with place := Place.dyntrees }.place ≠ .litCode := by decide

theorem witness_FetchReadsTheStream :
    (∃ s, ReaderOk s ∧ s.seqState = .expectBlockHeader ∧ s.pos + 3 = 8 * s.byteStreamSize.toNat) ∧
    (∃ s, ReaderOk s ∧ s.seqState = .expectBlockHeader ∧ 8 * s.byteStreamSize.toNat < s.pos + 3) ∧
    (∃ s, ReaderOk s ∧ s.seqState = .storedBlock ∧ alignUp s.pos + 32 = 8 * s.byteStreamSize.toNat) ∧
    (∃ s, ReaderOk s ∧ s.seqState = .trailer ∧ alignUp s.pos + 32 = 8 * s.byteStreamSize.toNat) ∧
    (∃ s, ReaderOk s ∧ s.seqState = .trailer ∧ 8 * s.byteStreamSize.toNat < alignUp s.pos + 32) ∧
    (∃ s, ReaderOk s ∧ s.inHuffmanBlock = true ∧ s.place = .dynhdr) ∧
    (∃ s, ReaderOk s ∧ s.inHuffmanBlock = true ∧ s.place = .prelen 18) ∧
    (∃ s, ReaderOk s ∧ s.inHuffmanBlock = true ∧ s.place = .clCode) ∧
    (∃ s, ReaderOk s ∧ s.inHuffmanBlock = true ∧ s.place = .clSym) ∧
    (∃ s, ReaderOk s ∧ s.inHuffmanBlock = true ∧ s.place = .dyntrees) ∧
    (∃ s, ReaderOk s ∧ s.inHuffmanBlock = true ∧ s.place = .litCode) ∧
    (∃ s, ReaderOk s ∧ s.inHuffmanBlock = true ∧ s.place = .litSym) ∧
    (∃ s, ReaderOk s ∧ s.inHuffmanBlock = true ∧ s.place = .distCode) ∧
    (∃ s, ReaderOk s ∧ s.inHuffmanBlock = true ∧ s.place = .distSym) ∧
    (∃ s, ReaderOk s ∧ s.inHuffmanBlock = true ∧ s.place = .matchCopy) := by
  have ok : ∀ p, ReaderOk { inFixed with place := p } := fun p => inFixed_ok.congr rfl rfl rfl rfl rfl rfl
  refine ⟨⟨{ rd 0b111 3 4 spent with seqState := .expectBlockHeader }, readerOk_of (by decide), rfl, by decide⟩,
    ⟨{ lastBit with seqState := .expectBlockHeader }, readerOk_of (by decide), rfl, by decide⟩,
    ⟨{ b4 with seqState := .storedBlock }, readerOk_of (by decide), rfl, by decide⟩,
    ⟨{ b4 with seqState := .trailer }, readerOk_of (by decide), rfl, by decide⟩,
    ⟨{ lastBit with seqState := .trailer }, readerOk_of (by decide), rfl, by decide⟩, ?_⟩
  exact ⟨⟨_, ok .dynhdr, rfl, rfl⟩, ⟨_, ok (.prelen 18), rfl, rfl⟩, ⟨_, ok .clCode, rfl, rfl⟩, ⟨_, ok .clSym, rfl, rfl⟩,
    ⟨_, ok .dyntrees, rfl, rfl⟩, ⟨_, ok .litCode, rfl, rfl⟩, ⟨_, ok .litSym, rfl, rfl⟩, ⟨_, ok .distCode, rfl, rfl⟩,
    ⟨_, ok .distSym, rfl, rfl⟩, ⟨_, ok .matchCopy, rfl, rfl⟩⟩

theorem witness_CodeRowsAgreeWithDecodeSymbol :
    (∃ m u, htMatch .fixLit inFixed = .ok m u) ∧ (∃ m u, htMatch .fixDist inFixed = .ok m u) :=
  ⟨⟨_, _, rfl⟩, ⟨_, _, rfl⟩⟩

theorem witness_StepMakesHostMove :
    (∀ m rest, ∃ s : State, s.inputs = .host m :: rest ∧ s.busy = true) ∧
    (∀ m rest, ∃ s : State, s.inputs = .host m :: rest ∧ s.busy = false) ∧
      (0x80000001#32).toNat % 2 = 1 ∧ (0xfffffffe#32).toNat % 2 = 0 ∧ 2 ^ 32 - 2 < 2 ^ 32 - 1 ∧
      (Instr.fixdist5 29).issuable = true ∧ (Instr.fixdist5 30).issuable = false ∧ Instr.eob.issuable = false ∧
      (Instr.lzCopy 511 0).issuable = true ∧ (Instr.htBuild .pre []).issuable = true :=
  ⟨fun m rest => ⟨{ inHeader with inputs := .host m :: rest }, rfl, rfl⟩,
    fun m rest => ⟨{ State.reset with inputs := .host m :: rest }, rfl, rfl⟩, by decide, by decide, by decide, rfl, rfl, rfl, rfl, rfl⟩

theorem witness_StepKeepsInv : ∃ s t, Inv s ∧ step s = .next t ∧ s.busy = true := ⟨inFixed, _, inFixed_inv, rfl, rfl⟩

theorem witness_EngineNeverStops :
    (Inv inFixed ∧ inFixed.inputs = []) ∧ ∃ s : State, Inv s ∧ s.inputs = [.tick] := by
  refine ⟨⟨inFixed_inv, rfl⟩, { idleOne with inputs := [.tick] }, ?_, rfl⟩
  obtain ⟨h1, h2, h3, -, h4, h5, h6, h7, -, h9⟩ := idle_inv.1
  exact ⟨h1, h2, .of_empty h3.cursor rfl rfl, fun h => absurd h (by decide), h4, h5, h6, h7,
    fun h => absurd h (by decide), h9⟩

theorem witness_CallEnds : Inv inHeader ∧ inHeader.busy = true ∧ inHeader.inputs = [] := ⟨inHeader_inv, rfl, rfl⟩

theorem witness_NoInstructionWritesInput : ∃ t, exec (.stored 0 0xffff) (inp [0x00, 0x00, 0xff, 0xff]) = .next t :=
  ⟨_, rfl⟩

theorem witness_NoInstructionReadsPastInput :
    ∃ (s : State) (m : Memory), m.epoch = s.inMem.epoch ∧ (∀ a, a < s.inSize.toNat → m.lookup a = s.inMem.lookup a) ∧
      m ≠ s.inMem ∧ s.inSize.toNat < s.byteStreamSize.toNat ∧ ReaderInv s := by
  refine ⟨{ b4 with inSize := 1 }, b4.inMem.write 2 0, rfl, ?_, by decide, by decide,
    (readerOk_of (s := { b4 with inSize := 1 }) (by decide)).inv⟩
  intro a h
  have h1 : ({ b4 with inSize := 1 } : State).inSize.toNat = 1 := rfl
  exact Memory.lookup_write_ne _ (by omega) _

theorem witness_OutputWrittenForward :
    ∃ t, Inv inFixed ∧ inFixed.inStream = true ∧ inFixed.inputs = [] ∧ step inFixed = .next t ∧ t.seqState ≠ .error :=
  ⟨_, inFixed_inv, rfl, rfl, rfl, by decide⟩

theorem witness_SequencerTransitions :
    (∃ t, step State.reset = .next t) ∧ (∃ t, step inHeader = .next t) ∧
    (∃ t, step { pos19 with seqState := .expectBlockHeader } = .next t) ∧
    (∃ t, step { inp [0, 0, 0xff, 0xff] with seqState := .storedBlock } = .next t) ∧
    (∃ t, step inFixed = .next t) ∧ (∃ t, step { b4 with seqState := .trailer } = .next t) :=
  ⟨⟨_, rfl⟩, ⟨_, rfl⟩, ⟨_, rfl⟩, ⟨_, rfl⟩, ⟨_, rfl⟩, ⟨_, rfl⟩⟩

theorem witness_PriorOutputNeverRead :
    ∃ s2 t1, Inv inFixed ∧ inFixed.inStream = true ∧ inFixed.inputs = [] ∧ SameButPriorOut inFixed s2 ∧ s2 ≠ inFixed ∧
      step inFixed = .next t1 ∧ t1.seqState ≠ .error :=
  ⟨{ inFixed with outMem := ⟨[(0, 7)], 3⟩ }, _, inFixed_inv, rfl, rfl, ⟨rfl, fun a h => absurd h (Nat.not_lt_zero a)⟩,
    fun h => absurd (congrArg (fun s => s.outMem.epoch) h) (by decide), rfl, by decide⟩

theorem witness_CallDependsOnlyOnInput :
    Inv idleOne ∧ Inv idleTwo ∧ idleOne.busy = false ∧ idleTwo.busy = false ∧ idleOne.inputs = [] ∧
      idleTwo.inputs = [] ∧ idleOne.inSize = idleTwo.inSize ∧ idleOne.outCapacity = idleTwo.outCapacity ∧
      ∀ a, a < idleOne.inSize.toNat → memReadIn a idleOne = memReadIn a idleTwo :=
  ⟨idle_inv.1, idle_inv.2, rfl, rfl, rfl, rfl, rfl, rfl, fun _ _ => rfl⟩

theorem witness_BrInitBindsReader : (4#32).toNat ≤ b4.inSize.toNat := by decide

theorem witness_BrInitPastEndKeepsReader : b4.inSize.toNat < (5#32).toNat := by decide

theorem witness_BrReadLoadsWholeBytes :
    (ReaderInv b4 ∧ (32 + 7) / 8 = b4.byteStreamSize.toNat - b4.byteStreamOffset.toNat ∧
      b4.bitBufferSize.toNat + 8 * ((32 + 7) / 8) = 32) ∧
    (ReaderInv spent ∧ spent.byteStreamSize.toNat - spent.byteStreamOffset.toNat < (1 + 7) / 8) ∧
    (∃ s, ReaderInv s ∧ (25 + 7) / 8 ≤ s.byteStreamSize.toNat - s.byteStreamOffset.toNat ∧
      32 < s.bitBufferSize.toNat + 8 * ((25 + 7) / 8)) :=
  ⟨⟨fresh_ok.1.inv, by decide, by decide⟩, ⟨spent_ok.inv, by decide⟩,
    ⟨rd 1 1 1 b8, (readerOk_of (by decide)).inv, by decide, by decide⟩⟩

theorem witness_BrGetValueReturnsNextBits :
    (ReaderInv b4 ∧ Available 32 b4 ∧ RefillFits 32 b4) ∧ (ReaderInv lastBit ∧ ¬ Available 2 lastBit) ∧
    (∃ s, ReaderInv s ∧ Available 26 s ∧ ¬ RefillFits 26 s) :=
  ⟨⟨fresh_ok.1.inv, by decide +kernel, by decide +kernel⟩, ⟨lastBit_ok.inv, by decide +kernel⟩,
    ⟨rd 1 1 1 b8, (readerOk_of (by decide)).inv, by decide +kernel, by decide +kernel⟩⟩

theorem witness_RefillBeyond32Refused : ReaderInv pos19 ∧ pos19.bitBufferSize.toNat ≤ 7 := ⟨pos19_ok.inv, by decide⟩

theorem witness_BrFlushAligns : ReaderInv pos19 ∧ pos19.bitBufferSize.toNat ≤ 7 := ⟨pos19_ok.inv, by decide⟩

theorem witness_AlignedByteAccess :
    (∃ s, ReaderInv s ∧ s.bitBufferSize.toNat % 8 = 0 ∧ Available 8 s ∧ s.pos + 8 = 8 * s.byteStreamSize.toNat) ∧
    (ReaderInv spent ∧ spent.bitBufferSize.toNat % 8 = 0 ∧ ¬ Available 8 spent) :=
  ⟨⟨rd 0 0 3 b4, (readerOk_of (by decide)).inv, by decide, by decide +kernel, by decide⟩, spent_ok.inv, by decide,
    by decide +kernel⟩

theorem witness_HtBuildMakesCanonicalTree :
    (TreeId.dynLit.writable = true ∧ 1 ≤ [15#8].length ∧ ∀ l ∈ [15#8], l.toNat ≤ 15) ∧
    (∃ l ∈ [16#8], 15 < l.toNat) := by decide

theorem witness_HtBuildOutsideItsOperands :
    (∃ l ∈ [16#8], 15 < l.toNat) ∧
    (TreeId.pre.writable = true ∧ (∀ l ∈ ([] : List (BitVec 8)), l.toNat ≤ 15) ∧ ([] : List (BitVec 8)).length = 0) ∧
    (∀ n, ∃ lengths : List (BitVec 8), (∀ l ∈ lengths, l.toNat ≤ 15) ∧ lengths.length = n) ∧
    (TreeId.fixDist.writable = false ∧ ∀ l ∈ fixDistLengths, l.toNat ≤ 15) :=
  ⟨by decide, by decide,
    fun n => ⟨List.replicate n 1, fun l h => by rw [List.eq_of_mem_replicate h]; decide, List.length_replicate ..⟩, by decide⟩

theorem witness_HtDecodeSymbolFirstMatch :
    ReaderInv b4 ∧ (b4.tree .dynDist).built = false ∧
    (∃ s, ReaderInv s ∧ (s.tree .pre).built = true ∧ Available 1 s ∧ ¬ Available 2 s ∧
      (s.tree .pre).HasCode 1 (codeAt s s.pos 1) 1) ∧
    (∃ s, ReaderInv s ∧ (s.tree .pre).built = true ∧ Available 15 s ∧ ¬ Available 16 s ∧
      ∀ j, 1 ≤ j → j ≤ 15 → (s.tree .pre).NoCode j (codeAt s s.pos j)) ∧
    (∃ s, ReaderInv s ∧ (s.tree .pre).built = true ∧ Available 14 s ∧ ¬ Available 15 s ∧
      ∀ j, 1 ≤ j → j ≤ 14 → (s.tree .pre).NoCode j (codeAt s s.pos j)) := by
  refine ⟨fresh_ok.1.inv, by decide, ⟨{ lastBit with preTree := buildTree [1, 1] }, (readerOk_of (by decide)).inv, by decide,
    by decide +kernel, by decide +kernel, ?_⟩,
    ⟨{ rd 0x7f 7 1 (inp [0xff, 0xff]) with preTree := buildTree [1] }, (readerOk_of (by decide)).inv, by decide,
      by decide +kernel, by decide +kernel, ?_⟩,
    ⟨{ rd 0x3f 6 1 (inp [0xff, 0xff]) with preTree := buildTree [1] }, (readerOk_of (by decide)).inv, by decide,
      by decide +kernel, by decide +kernel, ?_⟩⟩
  · simp only [TreeStore.HasCode]; decide +kernel
  · have : ∀ j : Fin 16, 1 ≤ j.val → (buildTree [1]).NoCode j.val
        (codeAt { rd 0x7f 7 1 (inp [0xff, 0xff]) with preTree := buildTree [1] } 1 j.val) := by
      simp only [TreeStore.NoCode]; decide +kernel
    exact fun j h1 h2 => this ⟨j, by omega⟩ h1
  · have : ∀ j : Fin 15, 1 ≤ j.val → (buildTree [1]).NoCode j.val
        (codeAt { rd 0x3f 6 1 (inp [0xff, 0xff]) with preTree := buildTree [1] } 2 j.val) := by
      simp only [TreeStore.NoCode]; decide +kernel
    exact fun j h1 h2 => this ⟨j, by omega⟩ h1

/-- The source's own example (S8): symbol 2 has the code 110, the bits that stand at POS 3 of `da 01`. -/
theorem witness_CanonicalCodesDecode :
    ∃ s, ReaderOk s ∧ (∀ l ∈ [2#8, 1, 3, 3], l.toNat ≤ 15) ∧ codeSpace [2#8, 1, 3, 3] = 2 ^ 15 ∧
      s.tree .pre = buildTree [2, 1, 3, 3] ∧ ([2#8, 1, 3, 3][2]?).map BitVec.toNat = some 3 ∧ Available 3 s ∧
      codeAt s s.pos 3 = firstCodeOf [2, 1, 3, 3] 3
        + ((symbolsOfLength [2, 1, 3, 3] 3).filter fun j => decide (j < 2)).length :=
  ⟨{ rd 0b11011 5 1 (inp [0xda, 0x01]) with preTree := buildTree [2, 1, 3, 3] }, readerOk_of (by decide), by decide,
    by decide, rfl, by decide, by decide +kernel, by decide +kernel⟩

theorem witness_SymbolsBelowNumberOfSymbols :
    (buildTree [1#8, 1]).HasCode 1 1 1 ∧ ¬ (buildTree [1#8, 1]).NoCode 1 1 := by
  simp only [TreeStore.HasCode, TreeStore.NoCode]; decide +kernel

theorem witness_FixedCodeRows :
    ReaderOk b4 ∧ Available 9 b4 ∧ (23#7).toNat ≤ 23 ∧ 48 ≤ (191#8).toNat ∧ (191#8).toNat ≤ 191 ∧
      192 ≤ (199#8).toNat ∧ (199#8).toNat ≤ 199 ∧ 400 ≤ (400#9).toNat ∧ (29#5).toNat ≤ 29 :=
  ⟨fresh_ok.1, by decide +kernel, by decide, by decide, by decide, by decide, by decide, by decide, by decide⟩

theorem witness_AdlerOperations :
    ∃ s : State, s.adlerChunk.toNat < 5552 ∧ s.adlerChunk.toNat + 1 = 5552 ∧
      s.adlerHi.toNat + (s.adlerLo.toNat + (255#8).toNat) = 4294690200 :=
  ⟨{ State.reset with adlerLo := 1481025, adlerHi := 4293208920, adlerChunk := 5551 }, by decide, by decide, by decide⟩

theorem witness_AdlerUnitComputesAdler32 :
    ([0x41#8] ≠ []) ∧ (0xfff0fff0#32).toNat % 65536 < 65521 ∧ (0xfff0fff0#32).toNat / 65536 < 65521 := by decide

theorem witness_AdlerSumsDoNotWrap :
    ∃ (bytes : List Byte) (s : State), bytes.length = 5552 ∧ s.adlerLo.toNat = 65520 ∧ s.adlerHi.toNat = 65520 :=
  ⟨List.replicate 5552 255, { State.reset with adlerLo := 65520, adlerHi := 65520 }, List.length_replicate .., by decide, by decide⟩

theorem witness_HeaderRows :
    2 ≤ (inp [0x78, 0x01]).inSize.toNat ∧ (inp [0x78]).inSize.toNat < 2 ∧ 1 ≤ (inp [0x78]).inSize.toNat ∧
      (inp []).inSize.toNat < 1 := by decide

theorem witness_HeaderStepTestsInOrder : inHeader.seqState = .header ∧ inHeader.inputs = [] := ⟨rfl, rfl⟩

theorem witness_BlockHeaders : ∃ s, ReaderOk s ∧ Available 3 s ∧ ¬ Available 4 s :=
  ⟨rd 0b111 3 4 spent, readerOk_of (by decide), by decide +kernel, by decide +kernel⟩

theorem witness_StoredBlock :
    (ReaderOk lastBit ∧ 8 * lastBit.byteStreamSize.toNat < alignUp lastBit.pos + 32) ∧
    (∃ s, ReaderOk s ∧ s.outOffset.toNat + (1#16).toNat = s.outCapacity.toNat ∧
      alignUp s.pos + 32 + 8 * (1#16).toNat = 8 * s.byteStreamSize.toNat ∧ 1#16 ^^^ 0xfffe = 0xffff) ∧
    (∃ s, ReaderOk s ∧ alignUp s.pos + 32 ≤ 8 * s.byteStreamSize.toNat ∧
      s.outCapacity.toNat < s.outOffset.toNat + (1#16).toNat ∧
      8 * s.byteStreamSize.toNat < alignUp s.pos + 32 + 8 * (1#16).toNat ∧ 1#16 ^^^ 0xfffe = 0xffff) ∧
    1#16 ^^^ 0xffff ≠ 0xffff :=
  ⟨⟨lastBit_ok, by decide⟩,
    ⟨outp [] 1 (inp [0x01, 0x00, 0xfe, 0xff, 0x61]), readerOk_of (by decide), by decide, by decide, by decide⟩,
    ⟨inp [0x01, 0x00, 0xfe, 0xff], readerOk_of (by decide), by decide, by decide, by decide, by decide⟩, by decide⟩

theorem witness_DynhdrSetsCounts :
    (∃ s, ReaderOk s ∧ Available 14 s) ∧ (29#5).toNat + 257 = 286 ∧ 286 < (30#5).toNat + 257 ∧
      (29#5).toNat + 1 = 30 ∧ 30 < (30#5).toNat + 1 :=
  ⟨⟨inp [0x64, 0x38], readerOk_of (by decide), by decide +kernel⟩, by decide, by decide, by decide, by decide⟩

theorem witness_PrelenStoresInOrder :
    ∃ s, ReaderOk s ∧ Available 3 s ∧ s.place = .prelen 18 ∧ 18 < s.numCodeLengthCodes.toNat ∧
      s.numCodeLengthCodes.toNat = 19 :=
  ⟨{ pos19 with place := .prelen 18, numCodeLengthCodes := 19 }, readerOk_of (by decide), by decide +kernel, rfl, by decide,
    by decide⟩

theorem witness_ClLenAppends :
    ∃ s : State, s.clIndex.toNat < s.totalLengths ∧ s.totalLengths = 316 ∧ s.clIndex.toNat = 315 :=
  ⟨{ State.reset with numLiteralCodes := 286, numDistanceCodes := 30, clIndex := 315 }, by decide, by decide, by decide⟩

theorem witness_RepeatsAppend :
    (∃ s : State, s.clIndex.toNat = 0 ∧ ReaderOk s ∧ s.totalLengths ≤ 316 ∧ Available 7 s) ∧
    (∃ s : State, s.clIndex.toNat = 313 ∧ ReaderOk s ∧ s.totalLengths = 316 ∧ Available 7 s ∧ fieldAt s s.pos 2 = 0) ∧
    (∃ s : State, s.clIndex.toNat = 313 ∧ ReaderOk s ∧ s.totalLengths = 316 ∧ Available 7 s ∧ fieldAt s s.pos 2 = 1) :=
  ⟨⟨b4, by decide, fresh_ok.1, by decide, by decide +kernel⟩,
    ⟨{ inp [0] with numLiteralCodes := 286, numDistanceCodes := 30, clIndex := 313 }, by decide, readerOk_of (by decide),
      by decide, by decide +kernel, by decide⟩,
    ⟨{ inp [1] with numLiteralCodes := 286, numDistanceCodes := 30, clIndex := 313 }, by decide, readerOk_of (by decide),
      by decide, by decide +kernel, by decide⟩⟩

theorem witness_DyntreesBuildsBoth :
    (∃ s : State, s.totalLengths = 316 ∧ s.codeLengths[256] = 0) ∧
    (∃ s : State, s.totalLengths = 316 ∧ s.codeLengths[256] = 1) ∧
    (∀ s : State, ∃ entry : Nat → BitVec 4,
      ∀ j, entry j = if h : j < 316 then s.codeLengths[j] else Config.freeLength s.freeCount j) :=
  ⟨⟨{ State.reset with numLiteralCodes := 286, numDistanceCodes := 30 }, by decide, by decide +kernel⟩,
    ⟨{ State.reset with numLiteralCodes := 286, numDistanceCodes := 30, codeLengths := Vector.replicate 316 1 }, by decide,
      by decide +kernel⟩, fun _ => ⟨_, fun _ => rfl⟩⟩

theorem witness_LitWritesOneByte :
    (outp [] 0 State.reset).outCapacity.toNat = (outp [] 0 State.reset).outOffset.toNat ∧
      (outp [] 1 State.reset).outOffset.toNat + 1 = (outp [] 1 State.reset).outCapacity.toNat := by decide

theorem witness_LengthRows :
    (Instr.len28.lenIndex = some 28 ∧ ReaderOk spent ∧ Available (lenExtra 28) spent) ∧
    (Instr.len27.lenIndex = some 27 ∧ ReaderOk lastBit ∧ ¬ Available (lenExtra 27) lastBit) ∧
    (Available (lenExtra 27) b4 ∧ fieldAt b4 b4.pos (lenExtra 27) = 21) :=
  ⟨⟨rfl, spent_ok, by decide +kernel⟩, ⟨rfl, lastBit_ok, by decide +kernel⟩, by decide +kernel, by decide⟩

theorem witness_DistanceRows :
    (Instr.dist0.distIndex = some 0 ∧ ReaderOk spent ∧ Available (distExtra 0) spent) ∧
    (Instr.dist29.distIndex = some 29 ∧ ReaderOk b4 ∧ Available (distExtra 29) b4) ∧
    (ReaderOk lastBit ∧ ¬ Available (distExtra 29) lastBit) :=
  ⟨⟨rfl, spent_ok, by decide +kernel⟩, ⟨rfl, fresh_ok.1, by decide +kernel⟩, lastBit_ok, by decide +kernel⟩

theorem witness_OperandTablesTile :
    (lenBase 0 = 3 ∧ lenBase 28 = 258 ∧ lenBase 27 + 2 ^ lenExtra 27 = 259) ∧
    (distBase 0 = 1 ∧ distBase 29 + 2 ^ distExtra 29 = 32769) ∧ (clOrderAt 0 = 16 ∧ clOrderAt 18 = 15) := by decide

theorem witness_MatchChecksThenCopies :
    (∃ s : State, s.outOffset.toNat < s.distance.toNat) ∧
    (∃ s : State, s.distance.toNat ≤ s.outOffset.toNat ∧ s.outCapacity.toNat < s.outOffset.toNat + s.length.toNat) ∧
    (∃ s : State, s.distance.toNat ≤ s.outOffset.toNat ∧ s.outOffset.toNat + s.length.toNat ≤ s.outCapacity.toNat ∧
      s.distance = 0 ∧ s.length ≠ 0) ∧
    (∃ s : State, s.distance.toNat = s.outOffset.toNat ∧ s.outOffset.toNat + s.length.toNat = s.outCapacity.toNat ∧
      s.distance ≠ 0 ∧ s.length.toNat = 258) ∧ (State.reset.distance = 0 ∧ State.reset.length = 0) :=
  ⟨⟨{ State.reset with distance := 1 }, by decide⟩,
    ⟨{ outp [0x61] 3 State.reset with distance := 1, length := 3 }, by decide, by decide⟩,
    ⟨{ outp [0x61] 4 State.reset with length := 3 }, by decide, by decide, by decide, by decide⟩,
    ⟨{ outp [0x61] 259 State.reset with distance := 1, length := 258 }, by decide, by decide, by decide, by decide⟩,
    rfl, rfl⟩

theorem witness_LzCopyCopies :
    (outp [] 0 State.reset).outOffset.toNat < (1#16).toNat ∧
      (2#16).toNat ≤ (outp [0x61, 0x62] 4 State.reset).outOffset.toNat ∧
      (outp [0x61, 0x62] 4 State.reset).outCapacity.toNat < (outp [0x61, 0x62] 4 State.reset).outOffset.toNat + (3#9).toNat ∧
      (outp [0x61, 0x62] 5 State.reset).outOffset.toNat + (3#9).toNat = (outp [0x61, 0x62] 5 State.reset).outCapacity.toNat ∧
      (1#16 ≠ 0) ∧ (0#16 = 0 ∧ 3#9 ≠ 0) := by
  decide

theorem witness_TrailerDecidesCall :
    (ReaderOk lastBit ∧ 8 * lastBit.byteStreamSize.toNat < alignUp lastBit.pos + 32) ∧
    (ReaderOk b4 ∧ alignUp b4.pos + 32 = 8 * b4.byteStreamSize.toNat) ∧
    (adler32 (outBytes 1 (outp [0x41] 1 State.reset)) 1 = (0x42#16).toNat * 65536 + (0x42#16).toNat) ∧
    (adler32 (outBytes 0 State.reset) 1 ≠ (0x42#16).toNat * 65536 + (0x42#16).toNat) :=
  ⟨⟨lastBit_ok, by decide⟩, ⟨fresh_ok.1, by decide⟩, by decide, by decide⟩

theorem witness_StartBeginsCall : inHeader.busy = true ∧ idleTwo.busy = false := ⟨rfl, rfl⟩

theorem witness_ShortFieldRaisesOutOfData :
    (rawBits (.bhdrReserved true) = some 3 ∧ ReaderOk lastBit ∧ ¬ Available 3 lastBit) ∧
    (rawBits .clRep = some 2 ∧ { lastBit with clIndex := 1 }.clIndex ≠ 0 ∧ ¬ Available 2 { lastBit with clIndex := 1 }) ∧
    (rawBits .dist4 = some 1 ∧ ReaderOk spent ∧ ¬ Available 1 spent) :=
  ⟨⟨rfl, lastBit_ok, by decide +kernel⟩, ⟨rfl, by decide, by decide +kernel⟩, rfl, spent_ok, by decide +kernel⟩

theorem witness_ErrorEntry : State.reset.inputs = [] := rfl

theorem witness_IdleDoneErrorLeftOnlyByStartOrReset :
    (∀ ins q, q = .idle ∨ q = .done ∨ q = .error →
      ∃ s : State, s.inputs = ins ∧ s.seqState = q ∧ s.busy = false ∧ s.errorCode = 3) ∧
    (0x80000001#32).toNat % 2 = 1 ∧
    (∃ s t : State, s.inputs = [.host (.issue (.brRead 33))] ∧ s.seqState = .done ∧ step s = .next t) :=
  ⟨fun ins q h => ⟨{ State.reset with seqState := q, errorCode := 3, inputs := ins }, rfl, rfl,
      by rcases h with rfl | rfl | rfl <;> rfl, rfl⟩, by decide,
    ⟨{ State.reset with seqState := .done, inputs := [.host (.issue (.brRead 33))] }, _, rfl, rfl, rfl⟩⟩

theorem witness_HostReadsRegisters :
    ∀ n, ∃ s s0 : State, s.inputs = [.host (.readReg n)] ∧ s0 = { s with inputs := [] } ∧ s.seqState = .done ∧ s.outCount = 5 :=
  fun n => ⟨{ idleTwo with inputs := [.host (.readReg n)] }, _, rfl, rfl, rfl, rfl⟩

end Sys2Proof.Tests
end

section
/-! The parts of the invariant of the block, and what an operation may end in. -/

namespace Sys2Proof.Machine

/-! ## What an operation may end in -/

/-- Every state the operation raises in satisfies `P`, and what it completes with satisfies `Q`. -/
def Res.Ends {α : Type} (P : State → Prop) (Q : α → State → Prop) : Res α → Prop
  | .ok a s => Q a s
  | .raised _ s => P s
  | .refused _ => True

/-- Every next state an outcome answers satisfies `P`. -/
def EveryNext (P : State → Prop) (x : Host.Outcome State Fault Refusal) : Prop := ∀ t, x = .next t → P t

section Ends
variable {α β : Type} {P : State → Prop}

theorem Res.Ends.bind {Q : α → State → Prop} {R : β → State → Prop} {x : Res α} {f : α → State → Res β}
    (h : x.Ends P Q) (hf : ∀ a s, Q a s → (f a s).Ends P R) : (x.bind f).Ends P R := by
  cases x with
  | ok a s => exact hf a s h
  | raised e s => exact h
  | refused r => trivial

theorem Res.Ends.imp {Q R : α → State → Prop} {x : Res α} (h : x.Ends P Q) (hq : ∀ a s, Q a s → R a s) :
    x.Ends P R := by
  cases x with
  | ok a s => exact hq a s h
  | raised e s => exact h
  | refused r => trivial

theorem everyNext_next {s : State} (h : P s) : EveryNext P (.next s) := fun _ ht => by
  cases ht; exact h

theorem everyNext_refused (r : Refusal) : EveryNext P (.refused r) := fun _ ht => nomatch ht

theorem everyNext_fault (r : Fault) : EveryNext P (.fault r) := fun _ ht => nomatch ht

/-- An operation's outcome is its last state, or the error taken in the state it raises in. -/
theorem Res.Ends.outcome {I : State → Prop} {x : Res Unit} (h : x.Ends P fun _ => I)
    (hraise : ∀ e s, P s → I (takeError e s)) : EveryNext I x.outcome := by
  cases x with
  | ok a s => exact everyNext_next h
  | raised e s => exact everyNext_next (hraise e s h)
  | refused r => exact everyNext_refused r

theorem Res.Ends.outcomeWith {I : State → Prop} {x : Res α} {f : α → State → State}
    (h : x.Ends P fun a s => I (f a s)) (hraise : ∀ e s, P s → I (takeError e s)) :
    EveryNext I (x.outcomeWith f) :=
  (h.bind fun _ _ hi => hi : (x.bind fun a s => .ok () (f a s)).Ends P fun _ => I).outcome hraise

theorem EveryNext.mapNext {f : State → State} {x : Host.Outcome State Fault Refusal}
    (h : EveryNext (fun u => P (f u)) x) : EveryNext P (mapNext x f) := fun _ ht => by
  obtain ⟨u, hu, rfl⟩ := mapNext_next ht
  exact h u hu

end Ends

/-! ## What holds in every state -/

/-- The part of the invariant that holds whatever the sequencer does: the form of the memories and 10_state.md R23,
(a) to (c). -/
structure BaseOk (s : State) : Prop where
  inForm : s.inMem.wf = true
  outForm : s.outMem.wf = true
  bounds : ReaderBounds s

/-- The registers `BaseOk` is about. -/
def State.baseView (s : State) : Memory × Memory × BitVec 32 × BitVec 6 × Word × Word :=
  (s.inMem, s.outMem, s.bitBuffer, s.bitBufferSize, s.byteStreamOffset, s.byteStreamSize)

theorem BaseOk.congr {s t : State} (h : BaseOk s) (hv : t.baseView = s.baseView := by rfl) : BaseOk t := by
  simp only [State.baseView, Prod.mk.injEq] at hv
  obtain ⟨hin, hout, hbuf, hsize, hoff, hstream⟩ := hv
  exact ⟨hin ▸ h.inForm, hout ▸ h.outForm, h.bounds.congr hbuf hsize hoff hstream⟩

theorem BaseOk.ofReader {s t : State} (h : BaseOk s) (hs : SameButReader s t) (hb : ReaderBounds t) : BaseOk t :=
  ⟨hs.inMem ▸ h.inForm, (by rw [hs] : t.outMem = s.outMem) ▸ h.outForm, hb⟩

theorem BaseOk.takeError {s : State} (h : BaseOk s) (e : ErrorKind) : BaseOk (takeError e s) :=
  ⟨h.inForm, rfl, h.bounds.congr rfl rfl rfl rfl⟩

theorem BaseOk.putOut {s : State} (h : BaseOk s) (v : Byte) : BaseOk (putOut v s) :=
  ⟨h.inForm, Memory.wf_write _ v h.outForm, h.bounds.congr rfl rfl rfl rfl⟩

theorem Inv.baseOk {s : State} (h : Inv s) : BaseOk s := ⟨h.inForm, h.outForm, h.bounds⟩

/-- Outside a stream the invariant asks for little more. -/
theorem BaseOk.inv {s : State} (h : BaseOk s) (hs : s.inStream = false)
    (hc : s.busy = true → s.errorCode = 0 ∧ s.outCount = 0) : Inv s where
  inForm := h.inForm
  outForm := h.outForm
  bounds := h.bounds
  reader := fun ht => absurd ht (by simp [hs])
  room := fun ht => absurd ht (by simp [hs])
  stored := fun hq => absurd hs (by simp [State.inStream, hq])
  fixed := fun hq => absurd hs (by simp [State.inStream, hq])
  dynamic := fun hq => absurd hs (by simp [State.inStream, hq])
  place := fun hq => by
    simp only [State.inHuffmanBlock, Bool.or_eq_true, beq_iff_eq] at hq
    rcases hq with hq | hq <;> simp [State.inStream, hq] at hs
  clean := hc

theorem inStream_of_not_busy {s : State} (h : s.busy = false) : s.inStream = false := by
  cases hq : s.seqState <;> simp_all [State.busy, State.inStream]

theorem BaseOk.inv_of_not_busy {s : State} (h : BaseOk s) (hb : s.busy = false) : Inv s :=
  h.inv (inStream_of_not_busy hb) fun ht => absurd ht (by simp [hb])

/-- An error taken where the memories and the reader are in order leads to a state of the invariant. -/
theorem takeError_inv (e : ErrorKind) (s : State) (h : BaseOk s) : Inv (takeError e s) :=
  (h.takeError e).inv_of_not_busy rfl

/-! ## What holds in a stream -/

/-- The part of the invariant that holds in a stream whatever the sequencer state is. -/
structure StreamOk (s : State) : Prop where
  inForm : s.inMem.wf = true
  outForm : s.outMem.wf = true
  reader : ReaderOk s
  bound : s.byteStreamSize = s.inSize
  room : s.outOffset.toNat ≤ s.outCapacity.toNat
  clean : s.errorCode = 0 ∧ s.outCount = 0

/-- The registers `StreamOk` is about. -/
def State.streamView (s : State) :
    (Memory × Memory × BitVec 32 × BitVec 6 × Word × Word) × Word × Word × Word × BitVec 4 × Word :=
  (s.baseView, s.inSize, s.outOffset, s.outCapacity, s.errorCode, s.outCount)

theorem StreamOk.congr {s t : State} (h : StreamOk s) (hv : t.streamView = s.streamView := by rfl) : StreamOk t := by
  simp only [State.streamView, State.baseView, Prod.mk.injEq] at hv
  obtain ⟨⟨hin, hout, hbuf, hsize, hoff, hstream⟩, hinSize, hoffset, hcap, herr, hcount⟩ := hv
  exact ⟨hin ▸ h.inForm, hout ▸ h.outForm, h.reader.congr hbuf hsize hoff hstream hin hinSize,
    by rw [hstream, hinSize, h.bound], by rw [hoffset, hcap]; exact h.room, by rw [herr, hcount]; exact h.clean⟩

theorem StreamOk.baseOk {s : State} (h : StreamOk s) : BaseOk s := ⟨h.inForm, h.outForm, h.reader.inv.toReaderBounds⟩

theorem StreamOk.ofReader {s t : State} (h : StreamOk s) (hs : SameButReader s t) (hr : ReaderOk t) : StreamOk t where
  inForm := hs.inMem ▸ h.inForm
  outForm := (h.baseOk.ofReader hs hr.inv.toReaderBounds).outForm
  reader := hr
  bound := by rw [hs.streamSize, hs.inSize, h.bound]
  room := by rw [hs]; exact h.room
  clean := by rw [hs]; exact h.clean

/-- A byte put out below the capacity (20_memory.md R68). -/
theorem StreamOk.putOut {s : State} (h : StreamOk s) (v : Byte) (hr : s.outOffset.toNat < s.outCapacity.toNat) :
    StreamOk (putOut v s) where
  inForm := h.inForm
  outForm := Memory.wf_write _ v h.outForm
  reader := h.reader.congr rfl rfl rfl rfl rfl rfl
  bound := h.bound
  room := by
    have hlt := s.outCapacity.isLt
    rw [putOut_offset (by omega)]; exact hr
  clean := h.clean

theorem busy_of_inStream {s : State} (h : s.inStream = true) : s.busy = true := by
  cases hq : s.seqState <;> simp_all [State.busy, State.inStream]

theorem Inv.streamOk {s : State} (h : Inv s) (hs : s.inStream = true) : StreamOk s :=
  ⟨h.inForm, h.outForm, (h.reader hs).1, (h.reader hs).2, h.room hs, h.clean (busy_of_inStream hs)⟩

/-- In a stream the invariant is `StreamOk`, BLOCK_TYPE and what the place of a Huffman block needs. -/
theorem StreamOk.inv {s : State} (h : StreamOk s) (hs : s.seqState = .storedBlock → s.blockType = 0)
    (hf : s.seqState = .fixedHuffmanBlock → s.blockType = 1) (hd : s.seqState = .dynamicHuffmanBlock → s.blockType = 2)
    (hp : s.inHuffmanBlock = true → PlaceOk s) : Inv s where
  inForm := h.inForm
  outForm := h.outForm
  bounds := h.baseOk.bounds
  reader := fun _ => ⟨h.reader, h.bound⟩
  room := fun _ => h.room
  stored := hs
  fixed := hf
  dynamic := hd
  place := hp
  clean := fun _ => h.clean

/-! ## What each place of a Huffman block needs -/

section PlaceOk
variable {s t : State}

theorem CountsLegal.congr (h : CountsLegal s) (hl : t.numLiteralCodes = s.numLiteralCodes := by rfl)
    (hd : t.numDistanceCodes = s.numDistanceCodes := by rfl)
    (hc : t.numCodeLengthCodes = s.numCodeLengthCodes := by rfl) : CountsLegal t :=
  ⟨hl ▸ h.lit, hd ▸ h.dist, hc ▸ h.pre⟩

theorem SymbolTreesReady.congr (h : SymbolTreesReady s) (hq : t.seqState = s.seqState := by rfl)
    (hl : t.dynLitTree = s.dynLitTree := by rfl) (hd : t.dynDistTree = s.dynDistTree := by rfl) :
    SymbolTreesReady t := by
  intro ht
  obtain ⟨litBuilt, distBuilt, lit, dist⟩ := h (hq ▸ ht)
  exact ⟨hl ▸ litBuilt, hd ▸ distBuilt, hl ▸ lit, hd ▸ dist⟩

/-- The registers `PlaceOk` is about. -/
def State.placeView (s : State) : (Place × SeqState) × (BitVec 9 × BitVec 6 × BitVec 5 × BitVec 9) ×
    (TreeStore × TreeStore × TreeStore) × (BitVec 9 × BitVec 9 × BitVec 9 × BitVec 5 × BitVec 16) :=
  ((s.place, s.seqState), (s.numLiteralCodes, s.numDistanceCodes, s.numCodeLengthCodes, s.clIndex),
    (s.preTree, s.dynLitTree, s.dynDistTree), (s.preSymbol, s.symbol, s.length, s.distSymbol, s.distance))

theorem PlaceOk.congr (h : PlaceOk s) (hv : t.placeView = s.placeView := by rfl) : PlaceOk t := by
  simp only [State.placeView, Prod.mk.injEq] at hv
  obtain ⟨⟨hplace, hseq⟩, ⟨hlit, hdist, hpre, hidx⟩, ⟨hpreTree, hlitTree, hdistTree⟩,
    hpreSym, hsym, hlen, hdsym, hd⟩ := hv
  have hcounts : CountsLegal t ↔ CountsLegal s :=
    ⟨fun hc => hc.congr hlit.symm hdist.symm hpre.symm, fun hc => hc.congr hlit hdist hpre⟩
  have htrees : SymbolTreesReady t ↔ SymbolTreesReady s :=
    ⟨fun ht => ht.congr hseq.symm hlitTree.symm hdistTree.symm, fun ht => ht.congr hseq hlitTree hdistTree⟩
  simpa only [PlaceOk, hcounts, htrees, State.totalLengths, hplace, hseq, hlit, hdist, hpre, hidx, hpreTree, hpreSym,
    hsym, hlen, hdsym, hd] using h

theorem placeOk_dynhdr (h : s.place = .dynhdr) : PlaceOk s ↔ s.seqState = .dynamicHuffmanBlock := by
  simp only [PlaceOk, h]

theorem placeOk_prelen {i : Nat} (h : s.place = .prelen i) :
    PlaceOk s ↔ s.seqState = .dynamicHuffmanBlock ∧ CountsLegal s ∧ i < s.numCodeLengthCodes.toNat := by
  simp only [PlaceOk, h]

theorem placeOk_clCode (h : s.place = .clCode) :
    PlaceOk s ↔ s.seqState = .dynamicHuffmanBlock ∧ CountsLegal s ∧ s.clIndex.toNat < s.totalLengths ∧
      s.preTree.built = true ∧ s.preTree.SymbolsBelow 19 := by
  simp only [PlaceOk, h]

theorem placeOk_clSym (h : s.place = .clSym) :
    PlaceOk s ↔ s.seqState = .dynamicHuffmanBlock ∧ CountsLegal s ∧ s.clIndex.toNat < s.totalLengths ∧
      s.preTree.built = true ∧ s.preTree.SymbolsBelow 19 ∧ s.preSymbol.toNat < 19 := by
  simp only [PlaceOk, h]

theorem placeOk_dyntrees (h : s.place = .dyntrees) :
    PlaceOk s ↔ s.seqState = .dynamicHuffmanBlock ∧ CountsLegal s ∧ s.clIndex.toNat = s.totalLengths := by
  simp only [PlaceOk, h]

theorem placeOk_litCode (h : s.place = .litCode) : PlaceOk s ↔ SymbolTreesReady s := by
  simp only [PlaceOk, h]

theorem placeOk_litSym (h : s.place = .litSym) : PlaceOk s ↔ SymbolTreesReady s ∧ s.symbol.toNat < 288 := by
  simp only [PlaceOk, h]

theorem placeOk_distCode (h : s.place = .distCode) :
    PlaceOk s ↔ SymbolTreesReady s ∧ 3 ≤ s.length.toNat ∧ s.length.toNat ≤ 258 := by
  simp only [PlaceOk, h]

theorem placeOk_distSym (h : s.place = .distSym) :
    PlaceOk s ↔ SymbolTreesReady s ∧ 3 ≤ s.length.toNat ∧ s.length.toNat ≤ 258 ∧ s.distSymbol.toNat < 30 := by
  simp only [PlaceOk, h]

theorem placeOk_matchCopy (h : s.place = .matchCopy) :
    PlaceOk s ↔ SymbolTreesReady s ∧ 3 ≤ s.length.toNat ∧ s.length.toNat ≤ 258 ∧
      1 ≤ s.distance.toNat ∧ s.distance.toNat ≤ 32768 := by
  simp only [PlaceOk, h]

end PlaceOk

end Sys2Proof.Machine
end

section
/-! The shared operations, the unit operations and the moves of the host keep the invariant. -/

namespace Sys2Proof.Machine

/-! ## The reader, in every state -/

section Base
variable {s : State}

theorem brRead_ends (n : Nat) (h : BaseOk s) : (brRead n s).Ends BaseOk fun _ => BaseOk := by
  cases hr : brRead n s with
  | ok u t => exact (brRead_bounds h.bounds hr).elim h.ofReader
  | raised e t =>
    have : t = s := by
      simp only [brRead] at hr
      split at hr
      · cases hr; rfl
      · split at hr
        · cases hr; rfl
        · split at hr <;> cases hr
    exact this ▸ h
  | refused r => trivial

theorem brFill_ends (fuel n : Nat) (h : BaseOk s) : (brFill fuel n s).Ends BaseOk fun _ => BaseOk := by
  induction fuel generalizing s with
  | zero => exact h
  | succ fuel ih =>
    simp only [brFill]
    split
    · exact (brRead_ends 8 h).bind fun _ _ h1 => ih h1
    · exact h

/-- BR.GET_VALUE raises only where the reader is still within its bounds. -/
theorem brGetValue_ends (n : Nat) (h : BaseOk s) : (brGetValue n s).Ends BaseOk fun _ => BaseOk := by
  cases hr : brGetValue n s with
  | ok v t => exact (brGetValue_bounds h.bounds hr).elim h.ofReader
  | raised e t =>
    have hf := brFill_ends 4 n h
    simp only [brGetValue] at hr
    split at hr
    · cases hr; exact h
    · split at hr
      · cases hr
      · split at hr
        · cases hr; exact h
        · cases hfill : brFill 4 n s with
          | ok u s1 => rw [hfill] at hr; cases hr
          | raised e s1 => rw [hfill] at hr hf; cases hr; exact hf
          | refused r => rw [hfill] at hr; cases hr
  | refused r => trivial

theorem brReadByte_ends (h : BaseOk s) : (brReadByte s).Ends BaseOk fun _ => BaseOk :=
  (brGetValue_ends 8 h).bind fun _ _ h1 => h1

theorem takeBits_ends (k : Nat) (h : BaseOk s) : (takeBits k s).Ends BaseOk fun _ => BaseOk := by
  induction k generalizing s with
  | zero => exact h
  | succ k ih => exact (brGetValue_ends 1 h).bind fun _ _ h1 => ih h1

theorem brFlush_baseOk (h : BaseOk s) : BaseOk (brFlush s) :=
  h.ofReader (sameButReader_take _ s) (take_bounds h.bounds (Nat.mod_le _ 8)).1

/-! ## Trees, copies and the checksum, in every state -/

theorem htMatchLoop_ends (t : TreeStore) (fuel : Nat) :
    ∀ (L c : Nat) {s : State}, BaseOk s → (htMatchLoop t fuel L c s).Ends BaseOk fun _ => BaseOk := by
  induction fuel with
  | zero => exact fun _ _ _ h => h
  | succ fuel ih =>
    intro L c s h
    refine (brGetValue_ends 1 h).bind fun b s1 h1 => ?_
    cases t.lookup (L + 1) (2 * c + b) with
    | some sym => exact h1
    | none => exact ih _ _ h1

theorem htMatch_ends (t : TreeId) (h : BaseOk s) : (htMatch t s).Ends BaseOk fun _ => BaseOk := by
  unfold htMatch
  split
  · exact htMatchLoop_ends _ _ _ _ h
  · trivial

theorem setTree_baseOk (t : TreeId) (x : TreeStore) (h : BaseOk s) : BaseOk (s.setTree t x) := by
  cases t <;> exact h.congr

theorem htBuild_ends (t : TreeId) (ls : List (BitVec 8)) (h : BaseOk s) :
    (htBuild t ls s).Ends BaseOk fun _ => BaseOk := by
  unfold htBuild
  split
  · exact h
  · split
    · exact setTree_baseOk t _ h
    · exact (setTree_baseOk t _ h).congr

theorem copyLoop_baseOk (k d : Nat) (h : BaseOk s) : BaseOk (copyLoop k d s) := by
  induction k generalizing s with
  | zero => exact h
  | succ k ih => exact ih (h.putOut _)

theorem freeCopy_baseOk (k : Nat) (h : BaseOk s) : BaseOk (freeCopy k s) := by
  induction k generalizing s with
  | zero => exact h
  | succ k ih => exact ih (h.putOut _).congr

theorem backReference_ends (length distance : Nat) (h : BaseOk s) :
    (backReference length distance s).Ends BaseOk fun _ => BaseOk := by
  unfold backReference
  split
  · exact h
  · split
    · exact h
    · split
      · exact freeCopy_baseOk length h
      · exact copyLoop_baseOk length distance h

theorem SameButAdler.baseView {t : State} (h : SameButAdler s t) : t.baseView = s.baseView := by rw [h]; rfl

theorem SameButAdler.streamView {t : State} (h : SameButAdler s t) : t.streamView = s.streamView := by rw [h]; rfl

end Base

/-! ## A bare unit operation -/

theorem execDyntrees_baseOk {s : State} (h : BaseOk s) : EveryNext BaseOk (execDyntrees s) := by
  refine Res.Ends.outcome (P := BaseOk) ?_ fun e _ hr => hr.takeError e
  split
  · exact h
  · refine (htBuild_ends .dynLit _ h).bind fun _ s1 h1 => (htBuild_ends .dynDist _ h1).bind fun _ s2 h2 => ?_
    show BaseOk (goto .litCode (takeFreeLengths s2))
    unfold takeFreeLengths
    split <;> exact h2.congr

theorem execHtBuild_baseOk (t : TreeId) (ls : List (BitVec 8)) {s : State} (h : BaseOk s) :
    EveryNext BaseOk (execHtBuild t ls s) := by
  refine Res.Ends.outcome (P := BaseOk) ((htBuild_ends t ls h).bind fun _ s1 h1 => ?_) fun e _ hr => hr.takeError e
  split
  · exact h1
  · trivial

theorem execBrInit_baseOk (off : Word) {s : State} (h : BaseOk s) : EveryNext BaseOk (execBrInit off s) := by
  unfold execBrInit
  split
  · exact everyNext_next ⟨h.inForm, h.outForm, brInitPastEnd_bounds s⟩
  · exact everyNext_next ⟨h.inForm, h.outForm, brInit_bounds (by omega)⟩

/-- An outcome computed from the result of an operation that keeps `BaseOk`. -/
theorem outcomeWith_baseOk {α : Type} {x : Res α} (h : x.Ends BaseOk fun _ => BaseOk) {f : α → State → State}
    (hf : ∀ a s, BaseOk s → BaseOk (f a s)) : EveryNext BaseOk (x.outcomeWith f) :=
  (h.imp hf : x.Ends BaseOk fun a s => BaseOk (f a s)).outcomeWith fun e _ hr => hr.takeError e

/-- A code of a fixed tree, and what it returns, change the reader and `unitResult` only. -/
theorem fixedCode_baseOk (n symbol : Nat) {s : State} (h : BaseOk s) : EveryNext BaseOk (fixedCode n symbol s) :=
  outcomeWith_baseOk (takeBits_ends n h) fun _ _ h1 => h1.congr

/-- Every unit operation keeps the memories' form and the bounds of the reader, and raises only where they hold. -/
theorem exec_unit_baseOk {i : Instr} (hi : i.isUnit = true) {s : State} (h : BaseOk s) :
    EveryNext BaseOk (exec i s) := by
  cases i with
  | fixlit7 code => exact fixedCode_baseOk _ _ h
  | fixlit8a code => exact fixedCode_baseOk _ _ h
  | fixlit8b code => exact fixedCode_baseOk _ _ h
  | fixlit9 code => exact fixedCode_baseOk _ _ h
  | fixdist5 code => exact fixedCode_baseOk _ _ h
  | brInit off => exact execBrInit_baseOk off h
  | brRead n => exact (brRead_ends n h).outcome fun e _ hr => hr.takeError e
  | brGetValue n => exact outcomeWith_baseOk (brGetValue_ends n h) fun _ _ h1 => h1.congr
  | brFlush => exact everyNext_next (brFlush_baseOk h)
  | brReadByte => exact outcomeWith_baseOk (brReadByte_ends h) fun _ _ h1 => h1.congr
  | brRemainingBytes => exact everyNext_next h.congr
  | htBuild tree ls => exact execHtBuild_baseOk tree ls h
  | htDecodeSymbol tree => exact outcomeWith_baseOk (htMatch_ends tree h) fun _ _ h1 => h1.congr
  | dyntrees => exact execDyntrees_baseOk h
  | matchCopy => exact outcomeWith_baseOk (backReference_ends _ _ h) fun _ _ h1 => h1.congr
  | lzCopy length distance => exact (backReference_ends _ _ h).outcome fun e _ hr => hr.takeError e
  | adlerInit initial => exact everyNext_next h.congr
  | adlerUpdate byte => exact everyNext_next (h.congr (sameButAdler_update byte s).baseView)
  | adlerFinal => exact everyNext_next h.congr
  | _ => cases hi

theorem isUnit_of_issuable {i : Instr} (h : i.issuable = true) : i.isUnit = true := by
  simp only [Instr.issuable, Bool.and_eq_true] at h
  exact h.1

/-- A bare operation leaves the sequencer where it stood, outside a call (44_decompress_top.md R222). -/
theorem issueUnit_inv {s : State} (i : Instr) (h : BaseOk s) : EveryNext Inv (issueUnit i s) := by
  intro t ht
  obtain ⟨hb, hi, u, hu, rfl⟩ := issueUnit_next ht
  have hbase : BaseOk u := exec_unit_baseOk (isUnit_of_issuable hi) (h.congr : BaseOk { s with seqState := .idle }) u hu
  have hkept : BaseOk (outsideCall s u) := by
    unfold outsideCall
    split
    · exact ⟨hbase.inForm, h.outForm, hbase.bounds.congr rfl rfl rfl rfl⟩
    · exact hbase.congr
  exact hkept.inv_of_not_busy (by simpa [State.busy] using hb)

/-! ## The moves of the host -/

/-- The invariant says nothing of the host's own registers. -/
theorem Inv.withHost {s : State} (h : Inv s) (v : Word) (rest : List Input) :
    Inv { s with hostData := v, inputs := rest } where
  inForm := h.inForm
  outForm := h.outForm
  bounds := h.bounds.congr rfl rfl rfl rfl
  reader := fun hs => (h.reader hs).imp (fun hr => hr.congr rfl rfl rfl rfl rfl rfl) id
  room := h.room
  stored := h.stored
  fixed := h.fixed
  dynamic := h.dynamic
  place := fun hq => (h.place hq).congr
  clean := h.clean

theorem unlessBusy_inv {s t : State} (h : s.busy = false → Inv t) : EveryNext Inv (unlessBusy s t) := by
  unfold unlessBusy
  split
  · exact everyNext_refused _
  · exact everyNext_next (h (by simpa using ‹¬s.busy = true›))

theorem withOffset_inv {a : Nat} {x : Host.Outcome State Fault Refusal} (h : EveryNext Inv x) :
    EveryNext Inv (withOffset a x) := by
  unfold withOffset
  split
  · exact h
  · exact everyNext_fault _

/-- What a word of CTRL decodes to (10_state.md R40). -/
theorem decode_ctrl32 (v : Word) : decode .ctrl32 v.toNat =
    if v.toNat % 2 = 1 then .ok (.decompress (BitVec.ofNat 31 (v.toNat / 2))) else .error (.noElement .ctrl32 v.toNat) := by
  have hfit : ¬ 2 ^ Format.width .ctrl32 ≤ v.toNat := Nat.not_le.2 v.isLt
  have hstart : bits v.toNat 0 1 = 1 ↔ v.toNat % 2 = 1 := by
    rw [← BitVec.toNat_inj]; simp [bits]
  simp only [decode, if_neg hfit, decodeFit, hstart]
  by_cases hv : v.toNat % 2 = 1
  · simp only [if_pos hv, bits, Nat.pow_one]
  · simp only [if_neg hv]

theorem execDecompress_inv (x : BitVec 31) {s : State} (h : Inv s) : EveryNext Inv (exec (.decompress x) s) := by
  show EveryNext Inv (execDecompress x s)
  unfold execDecompress
  split
  · exact everyNext_next h
  · exact everyNext_next (BaseOk.inv ⟨h.inForm, h.outForm, startCall_bounds s⟩ rfl fun _ => ⟨rfl, rfl⟩)

/-- What a host write of CTRL does (10_state.md R40; 70_reset_and_hazards.md R284). -/
theorem hostWriteReg_ctrl (v : Word) (s : State) : hostWriteReg 0 v s =
    if v.toNat % 2 = 1 then exec (.decompress (BitVec.ofNat 31 (v.toNat / 2))) s else .next s := by
  simp only [hostWriteReg, decode_ctrl32]
  by_cases hv : v.toNat % 2 = 1
  · simp only [if_pos hv]
  · simp only [if_neg hv]

theorem hostWriteReg_inv (n : Nat) (v : Word) {s : State} (h : Inv s) : EveryNext Inv (hostWriteReg n v s) := by
  match n with
  | 0 =>
    rw [hostWriteReg_ctrl]
    split
    · exact execDecompress_inv _ h
    · exact everyNext_next h
  | 1 | 2 | 5 => exact everyNext_next h
  | 3 | 4 => exact unlessBusy_inv fun hb => h.baseOk.congr.inv_of_not_busy hb
  | n + 6 => exact everyNext_fault _

/-- Every move of the host keeps the invariant of the block. -/
theorem hostMove_inv (m : HostMove) {s : State} (h : Inv s) : EveryNext Inv (hostMove m s) := by
  cases m with
  | writeReg n v => exact hostWriteReg_inv n v h
  | readReg n =>
    simp only [hostMove]
    split
    · exact everyNext_next (h.withHost _ s.inputs)
    · exact everyNext_fault _
  | writeIn a b =>
    exact withOffset_inv (unlessBusy_inv fun hb =>
      BaseOk.inv_of_not_busy ⟨Memory.wf_write a b h.inForm, h.outForm, h.bounds.congr rfl rfl rfl rfl⟩ hb)
  | readIn a => exact withOffset_inv (everyNext_next (h.withHost _ s.inputs))
  | writeOut a b =>
    exact withOffset_inv (unlessBusy_inv fun hb =>
      BaseOk.inv_of_not_busy ⟨h.inForm, Memory.wf_write a b h.outForm, h.bounds.congr rfl rfl rfl rfl⟩ hb)
  | readOut a => exact withOffset_inv (unlessBusy_inv fun _ => h.withHost _ s.inputs)
  | reset => exact everyNext_next (BaseOk.inv_of_not_busy ⟨rfl, rfl, .of_empty (Nat.le_refl 0) rfl rfl⟩ rfl)
  | issue i => exact issueUnit_inv i h.baseOk

end Sys2Proof.Machine
end

section
/-! Every row the sequencer executes keeps the invariant of the block. -/

namespace Sys2Proof.Machine

/-! ## The reader in a stream -/

/-- The sequencer's reads in a stream: a value of the field's width, or OutOfData with nothing changed. -/
theorem StreamOk.getValue {n : Nat} {s : State} (h : StreamOk s) (hn : n ≤ 25) :
    (brGetValue n s).Ends BaseOk fun v u => v < 2 ^ n ∧ SameButReader s u ∧ StreamOk u := by
  by_cases hb : Available n s
  · obtain ⟨u, hu, hc⟩ := getValue_consumed h.reader hn hb
    rw [hu]
    exact ⟨fieldAt_lt s s.pos n, hc.same, h.ofReader hc.same hc.ok⟩
  · rw [getValue_short h.reader.inv (by omega) hb]
    exact h.baseOk

theorem StreamOk.readByte {s : State} (h : StreamOk s) :
    (brReadByte s).Ends BaseOk fun _ u => SameButReader s u ∧ StreamOk u :=
  (h.getValue (by decide)).bind fun _ _ hu => hu.2

theorem StreamOk.takeBytes (k : Nat) {s : State} (h : StreamOk s) :
    (takeBytes k s).Ends BaseOk fun _ => StreamOk := by
  induction k generalizing s with
  | zero => exact h
  | succ k ih => exact h.readByte.bind fun _ _ hu => ih hu.2

theorem StreamOk.flush {s : State} (h : StreamOk s) : StreamOk (brFlush s) :=
  have hc := (flush_spec h.reader).1
  h.ofReader hc.same hc.ok

/-- The copy of a stored block stays within the capacity tested before it (42_deflate_framing.md R176). -/
theorem StreamOk.storedLoop (k : Nat) {s : State} (h : StreamOk s)
    (hr : s.outOffset.toNat + k ≤ s.outCapacity.toNat) : (storedLoop k s).Ends BaseOk fun _ => StreamOk := by
  induction k generalizing s with
  | zero => exact h
  | succ k ih =>
    refine h.readByte.bind fun b u hu => ?_
    have hoff : u.outOffset = s.outOffset := by rw [hu.1]
    have hcap : u.outCapacity = s.outCapacity := by rw [hu.1]
    have hlt := s.outCapacity.isLt
    refine ih (hu.2.putOut b (by rw [hoff, hcap]; omega)) ?_
    rw [putOut_offset (by rw [hoff]; omega), putOut_outCapacity, hoff, hcap]
    omega

/-! ## The header, the block headers and the trailer -/

theorem brInit_readerOk {off : Word} {s : State} (h : off.toNat ≤ s.inSize.toNat) : ReaderOk (brInit off s) :=
  ⟨⟨brInit_bounds h, rfl⟩, Nat.zero_le 7⟩

/-- Outside a Huffman block the invariant of a stream needs BLOCK_TYPE in a stored block only. -/
theorem StreamOk.inv_outside_block {s : State} (h : StreamOk s) (hb : s.inHuffmanBlock = false)
    (hs : s.seqState = .storedBlock → s.blockType = 0) : Inv s :=
  h.inv hs (fun hq => absurd hb (by simp [State.inHuffmanBlock, hq]))
    (fun hq => absurd hb (by simp [State.inHuffmanBlock, hq])) fun hq => absurd hq (by simp [hb])

/-- In a Huffman block it needs BLOCK_TYPE and what the place needs. -/
theorem StreamOk.inv_in_block {s : State} (h : StreamOk s) (hp : PlaceOk s)
    (hq : (s.seqState = .fixedHuffmanBlock ∧ s.blockType = 1) ∨ (s.seqState = .dynamicHuffmanBlock ∧ s.blockType = 2)) :
    Inv s := by
  refine h.inv ?_ ?_ ?_ fun _ => hp <;> rcases hq with ⟨hq, ht⟩ | ⟨hq, ht⟩ <;> simp [hq, ht]

theorem takeError_everyNext (e : ErrorKind) {s : State} (h : BaseOk s) : EveryNext Inv (.next (takeError e s)) :=
  everyNext_next (takeError_inv e s h)

/-- The header's rows (42_deflate_framing.md R170): the stream is entered with the reader at byte 2, or an error is
taken. -/
theorem zhdrRow_inv (w : Nat) {s : State} (h : Inv s) (hb : s.busy = true) : EveryNext Inv (exec (decodeZhdr w) s) := by
  have error (e : ErrorKind) : EveryNext Inv (.next (takeError e s)) := takeError_everyNext e h.baseOk
  unfold decodeZhdr
  split
  · show EveryNext Inv (if s.inSize.toNat < 1 then _ else _)
    split <;> exact error _
  · split
    · show EveryNext Inv (if s.inSize.toNat < 1 then _ else _)
      split <;> exact error _
    · split
      · show EveryNext Inv (if s.inSize.toNat < 2 then _ else _)
        split <;> exact error _
      · show EveryNext Inv (if s.inSize.toNat < 2 then _ else _)
        split
        · exact error _
        · have hr : ReaderOk (brInit 2 s) := brInit_readerOk (Nat.not_lt.1 ‹_›)
          have hs : StreamOk { brInit 2 s with outOffset := 0, seqState := .expectBlockHeader } :=
            ⟨h.inForm, h.outForm, hr.congr rfl rfl rfl rfl rfl rfl, rfl, Nat.zero_le _, h.clean hb⟩
          exact everyNext_next (hs.inv_outside_block rfl nofun)

theorem blockHeader_ends (last : Bool) (type : BitVec 2) {s : State} (h : StreamOk s) :
    (blockHeader last type s).Ends BaseOk fun _ u => StreamOk u ∧ u.blockType = type :=
  (h.getValue (by decide)).bind fun _ _ ⟨_, _, hu⟩ => ⟨hu.congr, rfl⟩

/-- The block header's rows (42_deflate_framing.md R174): a block of the type read is entered, or the reserved type
raises. -/
theorem bhdrRow_inv (w : Nat) {s : State} (h : StreamOk s) : EveryNext Inv (exec (decodeBhdr w) s) := by
  unfold decodeBhdr
  generalize (bits w 0 1 == 1) = last
  dsimp only
  split
  · exact Res.Ends.outcomeWith ((blockHeader_ends last 0 h).imp fun _ _ ⟨hu, ht⟩ =>
      hu.congr.inv_outside_block rfl fun _ => ht) takeError_inv
  · exact Res.Ends.outcomeWith ((blockHeader_ends last 1 h).imp fun _ _ ⟨hu, ht⟩ =>
      hu.congr.inv_in_block ((placeOk_litCode rfl).2 nofun) (.inl ⟨rfl, ht⟩)) takeError_inv
  · exact Res.Ends.outcomeWith ((blockHeader_ends last 2 h).imp fun _ _ ⟨hu, ht⟩ =>
      hu.congr.inv_in_block ((placeOk_dynhdr rfl).2 rfl) (.inr ⟨rfl, ht⟩)) takeError_inv
  · exact Res.Ends.outcome ((blockHeader_ends last 3 h).bind fun _ _ ⟨hu, _⟩ => hu.baseOk) takeError_inv

/-- The end of a block (44_decompress_top.md R230). -/
theorem endOfBlock_inv {s : State} (h : StreamOk s) : Inv (endOfBlock s) := by
  unfold endOfBlock
  have hs : StreamOk (if s.blockType = 2 then discardTrees s else s) := by
    split
    · exact h.congr
    · exact h
  generalize (if s.blockType = 2 then discardTrees s else s) = u at hs
  cases hl : u.lastBlockFlag <;> simp only [hl] <;> exact hs.congr.inv_outside_block rfl nofun

/-- PAD and STORED (42_deflate_framing.md R176): the copy runs only where the block fits in OUT. -/
theorem execStored_inv (len nlen : BitVec 16) {s : State} (h : StreamOk s) :
    EveryNext Inv (execStored len nlen s) := by
  refine Res.Ends.outcome (h.flush.getValue (by decide) |>.bind fun _ s1 ⟨_, _, h1⟩ => ?_) takeError_inv
  have h1' : StreamOk { s1 with storedLen := len } := h1.congr
  refine h1'.getValue (by decide) |>.bind fun _ s2 ⟨_, _, h2⟩ => ?_
  have h3 : StreamOk { s2 with storedNlen := nlen } := h2.congr
  generalize ({ s2 with storedNlen := nlen } : State) = s3 at h3
  dsimp only
  split
  · exact h3.baseOk
  · split
    · exact h3.baseOk
    · split
      · exact h3.baseOk
      · exact (h3.storedLoop _ (Nat.not_lt.1 ‹¬s3.outCapacity.toNat < _›)).bind fun _ _ h4 => endOfBlock_inv h4

/-- PAD and TRAILER (44_decompress_top.md R224 to R228). -/
theorem execTrailer_inv (hi lo : BitVec 16) {s : State} (h : StreamOk s) : EveryNext Inv (execTrailer hi lo s) := by
  refine Res.Ends.outcome (P := BaseOk) ?_ takeError_inv
  have hflush := h.flush
  generalize brFlush s = s1 at hflush
  dsimp only
  split
  · exact hflush.baseOk
  · refine (hflush.takeBytes 4).bind fun _ s2 h2 => ?_
    have h3 : StreamOk (adlerOfOut s2) := h2.congr (sameButAdler_ofOut s2).streamView
    split
    · exact h3.baseOk
    · exact h3.baseOk.congr.inv_of_not_busy rfl

/-! ## Rows of a Huffman block -/

/-- The sequencer stands at a place of a Huffman block. -/
structure InBlock (p : Place) (s : State) : Prop where
  inv : Inv s
  running : s.inHuffmanBlock = true
  at_place : s.place = p

section Block
variable {p : Place} {s : State}

theorem inStream_of_inHuffmanBlock (h : s.inHuffmanBlock = true) : s.inStream = true := by
  cases hq : s.seqState <;> simp_all [State.inHuffmanBlock, State.inStream]

theorem InBlock.streamOk (h : InBlock p s) : StreamOk s := h.inv.streamOk (inStream_of_inHuffmanBlock h.running)

theorem InBlock.placeOk (h : InBlock p s) : PlaceOk s := h.inv.place h.running

/-- BLOCK_TYPE is that of the block. -/
theorem InBlock.kind (h : InBlock p s) :
    (s.seqState = .fixedHuffmanBlock ∧ s.blockType = 1) ∨ (s.seqState = .dynamicHuffmanBlock ∧ s.blockType = 2) := by
  have hr := h.running
  simp only [State.inHuffmanBlock, Bool.or_eq_true, beq_iff_eq] at hr
  exact hr.imp (fun hq => ⟨hq, h.inv.fixed hq⟩) fun hq => ⟨hq, h.inv.dynamic hq⟩

/-- Moving on within the block: what the new place needs is all that is left to show. -/
theorem InBlock.move {t : State} (h : InBlock p s) (hs : StreamOk t) (hp : PlaceOk t)
    (hq : t.seqState = s.seqState := by rfl) (ht : t.blockType = s.blockType := by rfl) : Inv t :=
  hs.inv_in_block hp (by rw [hq, ht]; exact h.kind)

/-- Bits consumed leave the sequencer where it stands. -/
theorem InBlock.ofReader {t : State} (h : InBlock p s) (hs : SameButReader s t) (ht : StreamOk t) : InBlock p t where
  inv := h.move ht (h.placeOk.congr (by rw [hs]; rfl)) (by rw [hs]) (by rw [hs])
  running := by rw [hs]; exact h.running
  at_place := by rw [hs]; exact h.at_place

theorem InBlock.getValue (h : InBlock p s) {n : Nat} (hn : n ≤ 25) :
    (brGetValue n s).Ends BaseOk fun v u => v < 2 ^ n ∧ InBlock p u :=
  (h.streamOk.getValue hn).imp fun _ _ ⟨hv, hs, hu⟩ => ⟨hv, h.ofReader hs hu⟩

/-! ### The tree description of a dynamic block -/

theorem literalCodesOf_toNat (hlit : BitVec 5) : (literalCodesOf hlit).toNat = hlit.toNat + 257 := by
  have := hlit.isLt
  simp only [literalCodesOf, BitVec.toNat_ofNat]; omega

theorem distanceCodesOf_toNat (hdist : BitVec 5) : (distanceCodesOf hdist).toNat = hdist.toNat + 1 := by
  have := hdist.isLt
  simp only [distanceCodesOf, BitVec.toNat_ofNat]; omega

theorem codeLengthCodesOf_toNat (hclen : BitVec 4) : (codeLengthCodesOf hclen).toNat = hclen.toNat + 4 := by
  have := hclen.isLt
  simp only [codeLengthCodesOf, BitVec.toNat_ofNat]; omega

theorem execDynhdr_inv (hlit hdist : BitVec 5) (hclen : BitVec 4) (h : InBlock .dynhdr s) :
    EveryNext Inv (execDynhdr hlit hdist hclen s) := by
  refine Res.Ends.outcome ((h.getValue (by decide)).bind fun _ u ⟨_, hu⟩ => ?_) takeError_inv
  have hd := (placeOk_dynhdr hu.at_place).1 hu.placeOk
  have hpre := hclen.isLt
  dsimp only
  split
  · exact hu.streamOk.baseOk.congr
  · rename_i hmax
    rw [literalCodesOf_toNat, distanceCodesOf_toNat] at hmax
    refine hu.move hu.streamOk.congr ((placeOk_prelen (i := 0) rfl).2 ⟨hd, ⟨?_, ?_, ?_⟩, ?_⟩)
    · show 257 ≤ (literalCodesOf hlit).toNat ∧ (literalCodesOf hlit).toNat ≤ 286
      rw [literalCodesOf_toNat]; omega
    · show 1 ≤ (distanceCodesOf hdist).toNat ∧ (distanceCodesOf hdist).toNat ≤ 30
      rw [distanceCodesOf_toNat]; omega
    · show 4 ≤ (codeLengthCodesOf hclen).toNat ∧ (codeLengthCodesOf hclen).toNat ≤ 19
      rw [codeLengthCodesOf_toNat]; omega
    · show 0 < (codeLengthCodesOf hclen).toNat
      rw [codeLengthCodesOf_toNat]; omega

theorem preCodeLengths_length (s : State) : (preCodeLengths s).length = 19 := by simp [preCodeLengths]

theorem preCodeLengths_le (s : State) : ∀ l ∈ preCodeLengths s, l.toNat ≤ 15 := by
  intro l hl
  simp only [preCodeLengths, List.mem_map] at hl
  obtain ⟨x, -, rfl⟩ := hl
  have := x.isLt
  rw [BitVec.toNat_setWidth]; omega

theorem execPrelen_inv {i : Nat} (length : BitVec 3) (h : InBlock (.prelen i) s) :
    EveryNext Inv (execPrelen length s) := by
  refine Res.Ends.outcome ((h.getValue (by decide)).bind fun _ u ⟨_, hu⟩ => ?_) takeError_inv
  obtain ⟨hd, hc, hi⟩ := (placeOk_prelen hu.at_place).1 hu.placeOk
  simp only [hu.at_place, Place.prelenIndex]
  split
  · exact hu.move hu.streamOk.congr ((placeOk_prelen rfl).2 ⟨hd, hc.congr, ‹_›⟩)
  · rw [htBuild_ok _ (preCodeLengths_le _) (by rw [preCodeLengths_length]; decide)]
    refine hu.move hu.streamOk.congr ((placeOk_clCode rfl).2 ⟨hd, hc.congr, ?_, rfl, ?_⟩)
    · show 0 < u.numLiteralCodes.toNat + u.numDistanceCodes.toNat
      have := hc.lit; omega
    · exact buildTree_symbolsBelow (preCodeLengths_length _).le (by rw [preCodeLengths_length]; decide)

theorem CountsLegal.total_le (h : CountsLegal s) : s.totalLengths ≤ 316 := by
  have hlit := h.lit; have hdist := h.dist
  simp only [State.totalLengths]; omega

/-- Lengths appended up to the total lead to the next pre-code symbol or to DYNTREES (42_deflate_framing.md R183). -/
theorem codeLengthLoop_inv (r : Nat) (v : BitVec 4) (h : InBlock .clSym s)
    (hr : s.clIndex.toNat + r ≤ s.totalLengths) : Inv (codeLengthLoop (appendLengths r v s)) := by
  obtain ⟨hd, hc, -, hbuilt, hpre, -⟩ := (placeOk_clSym h.at_place).1 h.placeOk
  obtain ⟨hidx, heq, -⟩ := appendLengths_spec (s := s) r v (hr.trans hc.total_le)
  generalize (appendLengths r v s).codeLengths = lengths, (appendLengths r v s).clIndex = idx at heq hidx
  rw [heq]
  have htotal : ({ s with codeLengths := lengths, clIndex := idx } : State).totalLengths = s.totalLengths := rfl
  unfold codeLengthLoop
  rw [htotal]
  split
  · exact h.move h.streamOk.congr ((placeOk_clCode rfl).2 ⟨hd, hc.congr, ‹_›, hbuilt, hpre⟩)
  · have hlast : idx.toNat = s.totalLengths := Nat.le_antisymm (hidx ▸ hr) (Nat.not_lt.1 ‹_›)
    exact h.move h.streamOk.congr ((placeOk_dyntrees rfl).2 ⟨hd, hc.congr, hlast⟩)

theorem repeatLength_ends (r : Nat) (v : BitVec 4) (h : InBlock .clSym s) :
    (repeatLength r v s).Ends BaseOk fun _ => Inv := by
  unfold repeatLength
  split
  · exact h.streamOk.baseOk
  · exact codeLengthLoop_inv r v h (Nat.not_lt.1 ‹_›)

/-- A repeat after its extra bits (42_deflate_framing.md R185, R187, R188). -/
theorem repeatRow_ends (h : InBlock .clSym s) {n : Nat} (hn : n ≤ 25) (count : Nat → Nat) (v : State → BitVec 4) :
    ((brGetValue n s).bind fun e u => repeatLength (count e) (v u) u).Ends BaseOk fun _ => Inv :=
  (h.getValue hn).bind fun _ _ ⟨_, hu⟩ => repeatLength_ends _ _ hu

/-- The rows of a pre-code symbol (42_deflate_framing.md R184 to R188). -/
theorem clsymRow_inv (h : InBlock .clSym s) {w : Nat} {i : Instr} (hi : decodeClsym w = some i) :
    EveryNext Inv (exec i s) := by
  unfold decodeClsym at hi
  split at hi
  · cases hi
    obtain ⟨-, -, hidx, -⟩ := (placeOk_clSym h.at_place).1 h.placeOk
    exact everyNext_next (codeLengthLoop_inv 1 _ h hidx)
  · split at hi <;> cases hi
    · refine Res.Ends.outcome (P := BaseOk) ?_ takeError_inv
      split
      · exact h.streamOk.baseOk
      · exact repeatRow_ends h (by decide) (3 + ·) previousLength
    · exact (repeatRow_ends h (by decide) (3 + ·) fun _ => 0).outcome takeError_inv
    · exact (repeatRow_ends h (by decide) (11 + ·) fun _ => 0).outcome takeError_inv

theorem codeLengthsFrom_length (first n : Nat) (s : State) : (codeLengthsFrom first n s).length = n := by
  simp [codeLengthsFrom]

theorem codeLengthsFrom_le (first n : Nat) (s : State) : ∀ l ∈ codeLengthsFrom first n s, l.toNat ≤ 15 := by
  intro l hl
  simp only [codeLengthsFrom, List.mem_map] at hl
  obtain ⟨j, -, rfl⟩ := hl
  have := (codeLengthAt s (first + j)).isLt
  rw [BitVec.toNat_setWidth]; omega

/-- HT.BUILD of fewer than 512 entries of CODE_LENGTHS makes their tree. -/
theorem htBuild_codeLengthsFrom (t : TreeId) (first : Nat) {n : Nat} (hn : n < 512) (s u : State) :
    htBuild t (codeLengthsFrom first n s) u = .ok () (u.setTree t (buildTree (codeLengthsFrom first n s))) :=
  htBuild_ok u (codeLengthsFrom_le first n s) (by rw [codeLengthsFrom_length]; exact hn)

theorem buildTree_codeLengthsFrom_below (first : Nat) {n m : Nat} (hn : n < 512) (hm : n ≤ m) (s : State) :
    (buildTree (codeLengthsFrom first n s)).SymbolsBelow m :=
  buildTree_symbolsBelow (by rw [codeLengthsFrom_length]; exact hm) (by rw [codeLengthsFrom_length]; exact hn.le)

/-- DYNTREES (42_deflate_framing.md R186): the two trees are built over legal counts. -/
theorem execDyntrees_inv (h : InBlock .dyntrees s) : EveryNext Inv (execDyntrees s) := by
  obtain ⟨-, hc, -⟩ := (placeOk_dyntrees h.at_place).1 h.placeOk
  have hlit := hc.lit.2; have hdist := hc.dist.2
  refine Res.Ends.outcome (P := BaseOk) ?_ takeError_inv
  split
  · exact h.streamOk.baseOk
  · rw [literalLengths, htBuild_codeLengthsFrom _ _ (by omega), Res.bind_ok]
    have hdist' : ∀ x, (s.setTree .dynLit x).numDistanceCodes.toNat < 512 := fun x => Nat.lt_of_le_of_lt hdist (by decide)
    have hnone : ∀ x y, takeFreeLengths ((s.setTree .dynLit x).setTree .dynDist y)
        = (s.setTree .dynLit x).setTree .dynDist y := fun _ _ => if_neg (Nat.not_lt.2 hc.total_le)
    rw [distanceLengths, htBuild_codeLengthsFrom _ _ (hdist' _), Res.bind_ok, hnone]
    exact h.move h.streamOk.congr ((placeOk_litCode rfl).2 fun _ => ⟨rfl, rfl,
      buildTree_codeLengthsFrom_below _ (by omega) hlit _, buildTree_codeLengthsFrom_below _ (hdist' _) hdist _⟩)

/-! ### The symbol loop -/

/-- The row of a length symbol executes the length element of its index (43_lz77_expander.md R206). -/
theorem exec_lenInstr {k : Nat} {i : Instr} (h : lenInstr k = some i) :
    k < 29 ∧ ∀ s, exec i s = lengthElement k s := by
  unfold lenInstr at h
  split at h <;> cases h <;> exact ⟨by decide, fun _ => rfl⟩

/-- The row of a distance symbol below 30 executes the distance element of its index (43_lz77_expander.md R208). -/
theorem exec_decodeDist {j : Nat} {i : Instr} (h : decodeDist j = some i) (hj : j < 30) :
    ∀ s, exec i s = distanceElement j s := by
  unfold decodeDist at h
  split at h <;> cases h
  case h_31 | h_32 => omega
  all_goals exact fun _ => rfl

theorem len_range : ∀ k < 29, lenExtra k ≤ 25 ∧ 3 ≤ lenBase k ∧ lenBase k + 2 ^ lenExtra k ≤ 259 := by decide

theorem dist_range : ∀ j < 30, distExtra j ≤ 25 ∧ 1 ≤ distBase j ∧ distBase j + 2 ^ distExtra j ≤ 32769 := by decide

theorem lengthElement_inv {k : Nat} (hk : k < 29) (h : InBlock .litSym s) : EveryNext Inv (lengthElement k s) := by
  obtain ⟨hextra, hlo, hhi⟩ := len_range k hk
  refine Res.Ends.outcomeWith ((h.getValue hextra).imp fun e u ⟨he, hu⟩ => ?_) takeError_inv
  obtain ⟨ht, -⟩ := (placeOk_litSym hu.at_place).1 hu.placeOk
  have hlen : (BitVec.ofNat 9 (lenBase k + e)).toNat = lenBase k + e := by
    rw [BitVec.toNat_ofNat]; omega
  refine hu.move hu.streamOk.congr ((placeOk_distCode rfl).2 ⟨ht.congr, ?_⟩)
  show 3 ≤ (BitVec.ofNat 9 (lenBase k + e)).toNat ∧ (BitVec.ofNat 9 (lenBase k + e)).toNat ≤ 258
  rw [hlen]; omega

theorem distanceElement_inv {j : Nat} (hj : j < 30) (h : InBlock .distSym s) :
    EveryNext Inv (distanceElement j s) := by
  obtain ⟨hextra, hlo, hhi⟩ := dist_range j hj
  refine Res.Ends.outcomeWith ((h.getValue hextra).imp fun e u ⟨he, hu⟩ => ?_) takeError_inv
  obtain ⟨ht, hlen3, hlen258, -⟩ := (placeOk_distSym hu.at_place).1 hu.placeOk
  have hdist : (BitVec.ofNat 16 (distBase j + e)).toNat = distBase j + e := by
    rw [BitVec.toNat_ofNat]; omega
  refine hu.move hu.streamOk.congr ((placeOk_matchCopy rfl).2 ⟨ht.congr, hlen3, hlen258, ?_⟩)
  show 1 ≤ (BitVec.ofNat 16 (distBase j + e)).toNat ∧ (BitVec.ofNat 16 (distBase j + e)).toNat ≤ 32768
  rw [hdist]; omega

/-- LIT writes only below the capacity (43_lz77_expander.md R202). -/
theorem execLit_inv (byte : Byte) (h : InBlock .litSym s) : EveryNext Inv (execLit byte s) := by
  obtain ⟨ht, -⟩ := (placeOk_litSym h.at_place).1 h.placeOk
  unfold execLit
  split
  · exact takeError_everyNext _ h.streamOk.baseOk
  · exact everyNext_next (h.move (h.streamOk.putOut byte (Nat.not_le.1 ‹_›)).congr ((placeOk_litCode rfl).2 ht.congr))

/-- The rows of a literal/length symbol (30_encoding.md R110). -/
theorem litlenRow_inv (h : InBlock .litSym s) {w : Nat} {i : Instr} (hi : decodeLitlen w = some i) :
    EveryNext Inv (exec i s) := by
  unfold decodeLitlen at hi
  split at hi
  · cases hi; exact execLit_inv _ h
  · split at hi
    · cases hi; exact everyNext_next (endOfBlock_inv h.streamOk)
    · split at hi
      · obtain ⟨hk, he⟩ := exec_lenInstr hi
        rw [he]; exact lengthElement_inv hk h
      · split at hi
        · cases hi; exact takeError_everyNext _ h.streamOk.baseOk
        · split at hi <;> cases hi
          exact takeError_everyNext _ h.streamOk.baseOk

/-- The copy changes OUT and OUT_OFFSET only, within the capacity. -/
theorem copyLoop_streamOk {length distance : Nat} (h : StreamOk s) (h1 : 1 ≤ distance)
    (hd : distance ≤ s.outOffset.toNat) (hr : s.outOffset.toNat + length ≤ s.outCapacity.toNat) :
    StreamOk (copyLoop length distance s) := by
  have hlt := s.outCapacity.isLt
  have hoff := (copyLoop_spec length h1 hd (by omega)).1
  have hform := (copyLoop_baseOk length distance h.baseOk).outForm
  have hsame := copyLoop_sameButOut length distance s
  generalize copyLoop length distance s = t at hoff hform hsame
  obtain ⟨m, o, rfl⟩ : ∃ m o, t = { s with outMem := m, outOffset := o } := ⟨_, _, hsame⟩
  exact ⟨h.inForm, hform, h.reader.congr rfl rfl rfl rfl rfl rfl, h.bound, hoff.trans_le hr, h.clean⟩

/-- MATCH (43_lz77_expander.md R210, R212). -/
theorem execMatchCopy_inv (h : InBlock .matchCopy s) : EveryNext Inv (execMatchCopy s) := by
  obtain ⟨ht, -, -, hdist, -⟩ := (placeOk_matchCopy h.at_place).1 h.placeOk
  have hends := backReference_ends s.length.toNat s.distance.toNat h.streamOk.baseOk
  unfold execMatchCopy
  cases hr : backReference s.length.toNat s.distance.toNat s with
  | refused r => exact everyNext_refused r
  | raised e t =>
    rw [hr] at hends
    exact takeError_everyNext e hends
  | ok a t =>
    obtain ⟨hd, hroom, hz | ⟨-, rfl⟩⟩ := backReference_ok hr
    · omega
    · have hsame := copyLoop_sameButOut s.length.toNat s.distance.toNat s
      have hs := copyLoop_streamOk h.streamOk hdist hd hroom
      generalize copyLoop s.length.toNat s.distance.toNat s = t at hsame hs
      obtain ⟨m, o, rfl⟩ : ∃ m o, t = { s with outMem := m, outOffset := o } := ⟨_, _, hsame⟩
      exact everyNext_next (h.move hs.congr ((placeOk_litCode rfl).2 ht.congr))

end Block

end Sys2Proof.Machine
end

section
/-! The bits-to-symbol stage, the fetch and the step; the statements of 10_state.md. -/

namespace Sys2Proof.Machine

/-! ## What the fetch gives -/

theorem decode_ok {f : Format} {w : Nat} {i : Instr} (h : decode f w = .ok i) : decodeFit f w = some i := by
  unfold decode at h
  split at h
  · cases h
  · split at h
    · cases h; assumption
    · cases h

theorem fetched_instr {f : Format} {w : Nat} {i : Instr} (h : fetched f w = .instr i) : decodeFit f w = some i := by
  unfold fetched at h
  split at h
  · cases h; exact decode_ok ‹_›
  · split at h <;> cases h

theorem peek_instr {α : Type} {x : Res α} {f : α → Fetch} {i : Instr} (h : peek x f = .instr i) :
    ∃ a, f a = .instr i := by
  cases x with
  | ok a s => exact ⟨a, h⟩
  | raised e s => cases h
  | refused r => cases h

theorem peekField_instr {f : Format} {s : State} {i : Instr} (h : peekField f s = .instr i) :
    ∃ w, decodeFit f w = some i :=
  (peek_instr h).imp fun _ => fetched_instr

theorem peekHeader_instr {s : State} {i : Instr} (h : peekHeader s = .instr i) : ∃ w, i = decodeZhdr w := by
  unfold peekHeader at h
  split at h
  · cases h
  · exact ⟨_, (Option.some.inj (fetched_instr h)).symm⟩

theorem peekStored_instr {s : State} {i : Instr} (h : peekStored s = .instr i) : ∃ len nlen, i = .stored len nlen := by
  obtain ⟨w, hw⟩ := peek_instr h
  exact ⟨_, _, (Option.some.inj (fetched_instr hw)).symm⟩

theorem peekTrailer_instr {s : State} {i : Instr} (h : peekTrailer s = .instr i) : ∃ hi lo, i = .trailer hi lo := by
  unfold peekTrailer at h
  split at h
  · cases h
  · obtain ⟨w, hw⟩ := peek_instr h
    exact ⟨_, _, (Option.some.inj (fetched_instr hw)).symm⟩

/-! ## The bits-to-symbol stage -/

/-- The number of symbols a code with the tree may stand for (41_huffman_tree_decoder.md R158). -/
def alphabetSize : TreeId → Nat
  | .pre => 19
  | .dynLit | .fixLit => 288
  | .dynDist | .fixDist => 30

/-- The row of a code is HT.DECODE_SYMBOL, or the fixed-code row of a code (30_encoding.md R118). -/
theorem codeInstr_cases (t : TreeId) (s : State) :
    codeInstr t s = .htDecodeSymbol t ∨
      ∃ L f c, fixFormat t L = some f ∧ decodeFit f c = some (codeInstr t s) := by
  unfold codeInstr
  split
  · split
    · split
      · exact .inr ⟨_, _, _, ‹_›, decode_ok ‹_›⟩
      · exact .inl rfl
    · exact .inl rfl
  · exact .inl rfl

/-- A fixed-code row consumes its code and returns a symbol of the tree's alphabet. -/
theorem exec_fixRow {t : TreeId} {L c : Nat} {f : Format} {i : Instr} (hf : fixFormat t L = some f)
    (hi : decodeFit f c = some i) : ∃ n symbol, symbol < alphabetSize t ∧ ∀ s, exec i s = fixedCode n symbol s := by
  unfold fixFormat at hf
  split at hf <;> cases hf <;> simp only [decodeFit, decodeFix] at hi
  · split at hi <;> cases hi
    exact ⟨7, _, by simp only [alphabetSize, BitVec.toNat_ofNat]; omega, fun _ => rfl⟩
  · split at hi
    · cases hi
      exact ⟨8, _, by simp only [alphabetSize, BitVec.toNat_ofNat]; omega, fun _ => rfl⟩
    · split at hi <;> cases hi
      exact ⟨8, _, by simp only [alphabetSize, BitVec.toNat_ofNat]; omega, fun _ => rfl⟩
  · split at hi <;> cases hi
    exact ⟨9, _, by simp only [alphabetSize, BitVec.toNat_ofNat]; omega, fun _ => rfl⟩
  · split at hi <;> cases hi
    exact ⟨5, _, by simp only [alphabetSize, BitVec.toNat_ofNat]; omega, fun _ => rfl⟩

/-- What a bits-to-symbol row at a place may leave: an error taken, or a symbol below `n` in `unitResult`. -/
def SymbolRead (n : Nat) (p : Place) (u : State) : Prop :=
  (∃ e r, BaseOk r ∧ u = takeError e r) ∨ ∃ v w, v < n ∧ InBlock p w ∧ u = setResult v w

section Block
variable {p : Place} {s : State}

theorem InBlock.consumed {n : Nat} {t : State} (h : InBlock p s) (hc : Consumed n s t) : InBlock p t :=
  h.ofReader hc.same (h.streamOk.ofReader hc.same hc.ok)

theorem InBlock.takeBits (h : InBlock p s) (k : Nat) : (takeBits k s).Ends BaseOk fun _ => InBlock p := by
  induction k generalizing s with
  | zero => exact h
  | succ k ih => exact (h.getValue (by decide)).bind fun _ _ ⟨_, hu⟩ => ih hu

/-- HT.DECODE_SYMBOL in a stream gives a symbol of the store. -/
theorem InBlock.htMatch (h : InBlock p s) {t : TreeId} {n : Nat} (ht : (s.tree t).SymbolsBelow n) :
    (htMatch t s).Ends BaseOk fun m u => m.symbol.toNat < n ∧ InBlock p u := by
  unfold Machine.htMatch
  split
  · obtain ⟨k, sym, u, hm, -, hl, hc⟩ | ⟨k, u, hm, -, hc⟩ | ⟨u, hm, hc⟩ :=
        matchLoop_cases (s.tree t) Config.maxCodeSize 0 s.pos h.streamOk.reader (Nat.add_zero _).symm <;>
      rw [show htMatchLoop (s.tree t) Config.maxCodeSize 0 0 s = _ from hm]
    · exact ⟨ht _ _ (lookup_mem hl), h.consumed hc⟩
    · exact (h.consumed hc).streamOk.baseOk
    · exact (h.consumed hc).streamOk.baseOk
  · trivial

/-- The row executed for a code, with a tree whose symbols are in its alphabet. -/
theorem codeRow_next (h : InBlock p s) {t : TreeId} (ht : (s.tree t).SymbolsBelow (alphabetSize t)) :
    EveryNext (SymbolRead (alphabetSize t) p) (exec (codeInstr t s) s) := by
  have hraise : ∀ e r, BaseOk r → SymbolRead (alphabetSize t) p (takeError e r) := fun e r hr => .inl ⟨e, r, hr, rfl⟩
  obtain hi | ⟨L, f, c, hf, hi⟩ := codeInstr_cases t s
  · rw [hi]
    exact Res.Ends.outcomeWith ((h.htMatch ht).imp fun m u ⟨hm, hu⟩ => .inr ⟨_, u, hm, hu, rfl⟩) hraise
  · obtain ⟨n, symbol, hsym, he⟩ := exec_fixRow hf hi
    rw [he]
    exact Res.Ends.outcomeWith ((h.takeBits n).imp fun _ u hu => .inr ⟨_, u, hsym, hu, rfl⟩) hraise

/-! ## The symbol goes to its register -/

/-- The places at which a code stands next. -/
def Place.isCode : Place → Bool
  | .clCode | .litCode | .distCode => true
  | _ => false

theorem afterRow_not_code (h : s.place.isCode = false) (u : State) : afterRow s u = u := by
  unfold afterRow latchSymbol
  split
  · split
    · rfl
    · split <;> simp_all [Place.isCode]
  · rfl

theorem afterRow_takeError (s : State) (e : ErrorKind) (r : State) : afterRow s (takeError e r) = takeError e r := by
  unfold afterRow latchSymbol
  split <;> rfl

theorem afterRow_inBlock (h : InBlock p s) (u : State) : afterRow s u = latchSymbol p u := by
  simp only [afterRow, h.running, h.at_place, if_true]

theorem InBlock.not_error (h : InBlock p s) : s.seqState ≠ .error := by
  rcases h.kind with ⟨hq, -⟩ | ⟨hq, -⟩ <;> simp [hq]

/-- From the symbol read to the invariant: what is left is the latch of a symbol in the alphabet. -/
theorem afterRow_inv {n : Nat} (h : InBlock p s) {u : State} (hu : SymbolRead n p u)
    (hl : ∀ v w, v < n → InBlock p w → Inv (latchSymbol p (setResult v w))) : Inv (afterRow s u) := by
  obtain ⟨e, r, hr, rfl⟩ | ⟨v, w, hv, hw, rfl⟩ := hu
  · rw [afterRow_takeError]; exact takeError_inv e r hr
  · rw [afterRow_inBlock h]; exact hl v w hv hw

theorem latch_clCode_inv {v : Nat} {w : State} (hv : v < 19) (h : InBlock .clCode w) :
    Inv (latchSymbol .clCode (setResult v w)) := by
  obtain ⟨hd, hc, hidx, hbuilt, hpre⟩ := (placeOk_clCode h.at_place).1 h.placeOk
  rw [latchSymbol, if_neg (show (setResult v w).seqState ≠ .error from h.not_error)]
  refine h.move h.streamOk.congr ((placeOk_clSym rfl).2 ⟨hd, hc.congr, hidx, hbuilt, hpre, ?_⟩)
  show (BitVec.ofNat 9 v).toNat < 19
  rw [BitVec.toNat_ofNat]; omega

theorem latch_litCode_inv {v : Nat} {w : State} (hv : v < 288) (h : InBlock .litCode w) :
    Inv (latchSymbol .litCode (setResult v w)) := by
  have ht := (placeOk_litCode h.at_place).1 h.placeOk
  rw [latchSymbol, if_neg (show (setResult v w).seqState ≠ .error from h.not_error)]
  refine h.move h.streamOk.congr ((placeOk_litSym rfl).2 ⟨ht.congr, ?_⟩)
  show (BitVec.ofNat 9 v).toNat < 288
  rw [BitVec.toNat_ofNat]; omega

theorem latch_distCode_inv {v : Nat} {w : State} (hv : v < 30) (h : InBlock .distCode w) :
    Inv (latchSymbol .distCode (setResult v w)) := by
  obtain ⟨ht, hlen3, hlen258⟩ := (placeOk_distCode h.at_place).1 h.placeOk
  rw [latchSymbol, if_neg (show (setResult v w).seqState ≠ .error from h.not_error)]
  rw [if_neg (show ¬ 32 ≤ (setResult v w).unitResult from Nat.not_le.2 (hv.trans (by decide)))]
  refine h.move h.streamOk.congr ((placeOk_distSym rfl).2 ⟨ht.congr, hlen3, hlen258, ?_⟩)
  show (BitVec.ofNat 5 v).toNat < 30
  rw [BitVec.toNat_ofNat]; omega

/-! ## The trees in use -/

theorem TreeStore.SymbolsBelow.mono {m n : Nat} {t : TreeStore} (h : t.SymbolsBelow m) (hmn : m ≤ n) :
    t.SymbolsBelow n := fun L sym hs => (h L sym hs).trans_le hmn

/-- FIX_LIT_TREE is built over the 288 lengths of 41_huffman_tree_decoder.md R160. -/
theorem fixLitTree_below : fixLitTree.SymbolsBelow 288 := by
  have hlen : fixLitLengths.length = 288 := by
    simp only [fixLitLengths, List.length_append, List.length_replicate]
  rw [show fixLitTree = buildTree fixLitLengths by decide +kernel]
  exact buildTree_symbolsBelow hlen.le (by omega)

/-- FIX_DIST_TREE is built over 30 lengths (41_huffman_tree_decoder.md R160). -/
theorem fixDistTree_below : fixDistTree.SymbolsBelow 30 := by
  rw [show fixDistTree = buildTree fixDistLengths by decide +kernel]
  exact buildTree_symbolsBelow (by decide) (by decide)

/-- The trees of the symbol loop (10_state.md R29) hold symbols of their alphabets. -/
theorem InBlock.treesInUse_below (h : InBlock p s) (ht : SymbolTreesReady s) :
    (s.tree s.litTreeInUse).SymbolsBelow (alphabetSize s.litTreeInUse) ∧ alphabetSize s.litTreeInUse = 288 ∧
      (s.tree s.distTreeInUse).SymbolsBelow (alphabetSize s.distTreeInUse) ∧ alphabetSize s.distTreeInUse = 30 := by
  rcases h.kind with ⟨-, hk⟩ | ⟨hq, hk⟩
  · simp only [State.litTreeInUse, State.distTreeInUse, hk, if_true]
    exact ⟨fixLitTree_below, rfl, fixDistTree_below, rfl⟩
  · have hready := ht hq
    simp only [State.litTreeInUse, State.distTreeInUse, hk]
    exact ⟨hready.lit.mono (by decide), rfl, hready.dist, rfl⟩

/-! ## One row of the engine -/

/-- Every row of a Huffman block keeps the invariant. -/
theorem nextInBlock_inv (h : InBlock p s) {i : Instr} (hi : nextInBlock s = .instr i) :
    EveryNext (fun u => Inv (afterRow s u)) (exec i s) := by
  have stay (hp : p.isCode = false) (hx : EveryNext Inv (exec i s)) :
      EveryNext (fun u => Inv (afterRow s u)) (exec i s) := fun u hu => by
    show Inv (afterRow s u)
    rw [afterRow_not_code (by rw [h.at_place]; exact hp)]; exact hx u hu
  have hpl := h.placeOk
  simp only [nextInBlock, h.at_place] at hi
  cases p with
  | dynhdr =>
    obtain ⟨w, hw⟩ := peekField_instr hi
    cases hw
    exact stay rfl (execDynhdr_inv _ _ _ h)
  | prelen k =>
    obtain ⟨w, hw⟩ := peekField_instr hi
    cases hw
    exact stay rfl (execPrelen_inv _ h)
  | clCode =>
    cases hi
    obtain ⟨-, -, -, -, hpre⟩ := (placeOk_clCode h.at_place).1 hpl
    exact fun u hu => afterRow_inv h (codeRow_next h (t := .pre) hpre u hu) fun _ _ => latch_clCode_inv
  | clSym => exact stay rfl (clsymRow_inv h (fetched_instr hi))
  | dyntrees =>
    cases hi
    exact stay rfl (execDyntrees_inv h)
  | litCode =>
    cases hi
    obtain ⟨hbelow, hn, -, -⟩ := h.treesInUse_below ((placeOk_litCode h.at_place).1 hpl)
    exact fun u hu => afterRow_inv h (codeRow_next h hbelow u hu) fun _ _ hv => latch_litCode_inv (hn ▸ hv)
  | litSym => exact stay rfl (litlenRow_inv h (fetched_instr hi))
  | distCode =>
    cases hi
    obtain ⟨-, -, hbelow, hn⟩ := h.treesInUse_below ((placeOk_distCode h.at_place).1 hpl).1
    exact fun u hu => afterRow_inv h (codeRow_next h hbelow u hu) fun _ _ hv => latch_distCode_inv (hn ▸ hv)
  | distSym =>
    obtain ⟨-, -, -, hsym⟩ := (placeOk_distSym h.at_place).1 hpl
    refine stay rfl ?_
    rw [exec_decodeDist (fetched_instr hi) hsym]
    exact distanceElement_inv hsym h
  | matchCopy =>
    cases hi
    exact stay rfl (execMatchCopy_inv h)

end Block

theorem afterRow_outside_block {s : State} (h : s.inHuffmanBlock = false) (u : State) : afterRow s u = u := by
  rw [afterRow, h]; rfl

/-- Every row that comes next keeps the invariant, with what the sequencer adds after it. -/
theorem nextInstr_inv {s : State} (h : Inv s) {i : Instr} (hi : nextInstr s = .instr i) :
    EveryNext (fun u => Inv (afterRow s u)) (exec i s) := by
  have outside (hb : s.inHuffmanBlock = false) (hx : EveryNext Inv (exec i s)) :
      EveryNext (fun u => Inv (afterRow s u)) (exec i s) := fun u hu => by
    show Inv (afterRow s u)
    rw [afterRow_outside_block hb]; exact hx u hu
  unfold nextInstr at hi
  cases hq : s.seqState with
  | idle => rw [hq] at hi; cases hi
  | done => rw [hq] at hi; cases hi
  | error => rw [hq] at hi; cases hi
  | header =>
    rw [hq] at hi
    obtain ⟨w, rfl⟩ := peekHeader_instr hi
    exact outside (by simp [State.inHuffmanBlock, hq]) (zhdrRow_inv w h (by simp [State.busy, hq]))
  | expectBlockHeader =>
    rw [hq] at hi
    obtain ⟨w, hw⟩ := peekField_instr hi
    cases hw
    exact outside (by simp [State.inHuffmanBlock, hq]) (bhdrRow_inv w (h.streamOk (by simp [State.inStream, hq])))
  | storedBlock =>
    rw [hq] at hi
    obtain ⟨len, nlen, rfl⟩ := peekStored_instr hi
    exact outside (by simp [State.inHuffmanBlock, hq]) (execStored_inv _ _ (h.streamOk (by simp [State.inStream, hq])))
  | trailer =>
    rw [hq] at hi
    obtain ⟨hiHalf, loHalf, rfl⟩ := peekTrailer_instr hi
    exact outside (by simp [State.inHuffmanBlock, hq]) (execTrailer_inv _ _ (h.streamOk (by simp [State.inStream, hq])))
  | fixedHuffmanBlock =>
    rw [hq] at hi
    exact nextInBlock_inv ⟨h, by simp [State.inHuffmanBlock, hq], rfl⟩ hi
  | dynamicHuffmanBlock =>
    rw [hq] at hi
    exact nextInBlock_inv ⟨h, by simp [State.inHuffmanBlock, hq], rfl⟩ hi

/-- One row of the engine keeps the invariant. -/
theorem engineStep_inv {s : State} (h : Inv s) : EveryNext Inv (engineStep s) := by
  unfold engineStep
  split
  · exact (nextInstr_inv h ‹_›).mapNext
  · exact takeError_everyNext _ h.baseOk
  · exact everyNext_refused _
  · exact everyNext_next h

/-- Settles O10: each move of the host and each row of the engine keeps the invariant (`hostMove_inv`,
`engineStep_inv`). -/
theorem stepKeepsInv : Obligations.StepKeepsInv := by
  intro s t h ht
  have h0 (rest : List Input) : Inv { s with inputs := rest } := h.withHost s.hostData rest
  unfold step nextStep at ht
  split at ht
  · exact engineStep_inv h t ht
  · exact engineStep_inv (h0 _) t ht
  · exact hostMove_inv _ (h0 _) t ht

/-! ## Reset, and what a step of the host does -/

/-- Settles O11: after reset no call runs, and the reader is empty. -/
theorem invAtReset : Obligations.InvAtReset :=
  have hb : BaseOk State.reset := ⟨reset_memories_wf.1, reset_memories_wf.2, .of_empty (Nat.le_refl 0) rfl rfl⟩
  hb.inv_of_not_busy rfl

/-- Settles O20, by evaluation of the state after reset. -/
theorem resetValues : Obligations.ResetValues := by
  refine ⟨rfl, ?_, rfl, rfl, rfl, rfl, rfl, rfl, rfl, rfl, rfl, rfl, rfl, rfl, rfl, rfl, rfl, rfl, rfl⟩
  intro n hn
  interval_cases n <;> rfl

/-- A step with a host move at the head of the inputs makes it. -/
theorem step_host {s : State} {m : HostMove} {rest : List Input} (h : s.inputs = .host m :: rest) :
    step s = hostMove m { s with inputs := rest } := by
  simp only [step, nextStep, h]

theorem withOffset_of_lt {a : Nat} (h : a < 2 ^ 32 - 1) (x : Host.Outcome State Fault Refusal) :
    withOffset a x = x := if_pos h

/-- Settles O9: `hostMove`, a clause per move; a word of CTRL is decoded by `hostWriteReg_ctrl`. -/
theorem stepMakesHostMove : Obligations.StepMakesHostMove := by
  rintro s s0 m rest hin rfl
  rw [step_host hin]
  refine ⟨?_, ?_, ?_, ?_, ?_, ?_, ?_, ?_, ?_, ?_, ?_, ?_, ?_⟩
  · rintro v rfl hv
    exact (hostWriteReg_ctrl v _).trans (if_pos hv)
  · rintro v rfl hv
    exact (hostWriteReg_ctrl v _).trans (if_neg (by omega))
  · rintro n v rfl (rfl | rfl | rfl) <;> rfl
  · rintro v rfl; rfl
  · rintro v rfl; rfl
  · rintro a b rfl ha; exact withOffset_of_lt ha _
  · rintro a b rfl ha; exact withOffset_of_lt ha _
  · rintro a rfl ha; exact withOffset_of_lt ha _
  · rintro a rfl ha; exact withOffset_of_lt ha _
  · rintro rfl; rfl
  · rintro i rfl hb; exact if_pos hb
  · rintro i rfl hb hi
    exact (if_neg (ne_true_of_eq_false hb)).trans (if_neg (ne_true_of_eq_false hi))
  · rintro i rfl hb hi
    exact (if_neg (ne_true_of_eq_false hb)).trans (if_pos hi)

/-- STATUS by the sequencer state (10_state.md R40). -/
theorem statusWord_eq (s : State) : s.statusWord =
    if s.seqState = .idle then 0 else if s.seqState = .done then 2 else if s.seqState = .error then 4 else 1 := by
  cases hq : s.seqState <;> simp [State.statusWord, hq]

theorem errorCodeWord_eq (s : State) :
    s.errorCodeWord = if s.seqState = .error then BitVec.ofNat 32 s.errorCode.toNat else 0 := by
  rw [State.errorCodeWord, BitVec.ofNat_toNat]

/-- A register read answers its value in `hostData`; a number with none is a fault. -/
theorem hostMove_readReg (n : Nat) (s : State) : hostMove (.readReg n) s =
    (s.readRegister n).elim (.fault (.noSuchRegister n)) fun v => .next { s with hostData := v } := by
  simp only [hostMove]
  cases s.readRegister n <;> rfl

/-- Settles O60: `readRegister`, a clause per register. -/
theorem hostReadsRegisters : Obligations.HostReadsRegisters := by
  rintro s s0 n rest hin rfl
  rw [step_host hin, hostMove_readReg]
  refine ⟨?_, ?_, ?_, ?_, ?_, ?_, ?_⟩
  · rintro rfl; rfl
  · rintro rfl
    exact congrArg (fun v => Host.Outcome.next { s with inputs := rest, hostData := v }) (statusWord_eq s)
  · rintro rfl
    exact congrArg (fun v => Host.Outcome.next { s with inputs := rest, hostData := v }) (errorCodeWord_eq s)
  · rintro rfl; rfl
  · rintro rfl; rfl
  · rintro rfl; rfl
  · intro hn
    obtain ⟨k, rfl⟩ := Nat.exists_eq_add_of_lt hn
    rw [show 5 + k + 1 = k + 6 by omega]; rfl

end Sys2Proof.Machine
end

section
/-! What the rows of the opcode table read and write of the two memories. Run in two states that differ in the memories
only, where these agree on IN below IN_SIZE and on OUT below OUT_OFFSET, a row ends alike (`exec_alike`). That one case
analysis over the rows gives the statements of 20_memory.md on what is read and, from a state and itself, on what is
written. -/

namespace Sys2Proof

/-- The rows that set OUT_OFFSET back to 0: an accepted header (42_deflate_framing.md R170) and START
(70_reset_and_hazards.md R284). -/
def Instr.restarts : Instr → Bool
  | .zhdr _ _ _ | .decompress _ => true
  | _ => false

end Sys2Proof

namespace Sys2Proof.Machine

/-! ## States that differ in the memories only -/

/-- The memories, the registers that bound what is read and written of them, and what belongs to the host. -/
def State.memView (s : State) : (Memory × Memory) × (Word × Word × Word) × (Word × List Input) :=
  ((s.inMem, s.outMem), (s.inSize, s.outOffset, s.outCapacity), (s.hostData, s.inputs))

theorem memView_eq_iff {s t : State} : t.memView = s.memView ↔
    (t.inMem = s.inMem ∧ t.outMem = s.outMem) ∧
      (t.inSize = s.inSize ∧ t.outOffset = s.outOffset ∧ t.outCapacity = s.outCapacity) ∧
      t.hostData = s.hostData ∧ t.inputs = s.inputs := by
  simp only [State.memView, Prod.mk.injEq]

/-- `s` with other memories. -/
def State.withMems (s : State) (m o : Memory) : State := { s with inMem := m, outMem := o }

/-- Two states that differ in the memories only, and are related by `J`. -/
structure Alike (J : State → State → Prop) (s t : State) : Prop where
  same : t = s.withMems t.inMem t.outMem
  rel : J s t

/-- `J` is about the memories and what bounds them, and relates memories IN that an instruction cannot tell apart. -/
structure InputCoherent (J : State → State → Prop) : Prop where
  congr : ∀ {s t s' t' : State}, J s t → s'.memView = s.memView → t'.memView = t.memView → J s' t'
  readIn : ∀ {s t : State}, Alike J s t → ∀ a, memReadIn a t = memReadIn a s

/-- The same of both memories; and a byte put out in both states keeps `J`. -/
structure Coherent (J : State → State → Prop) : Prop extends InputCoherent J where
  readOut : ∀ {s t : State}, Alike J s t → ∀ a, a < s.outOffset.toNat → memReadOut a t = memReadOut a s
  put : ∀ {s t : State} (v : Byte), Alike J s t → s.outOffset.toNat < s.outCapacity.toNat →
    J (putOut v s) (putOut v t)

/-- Clearing OUT_OFFSET keeps `J`. -/
def Restartable (J : State → State → Prop) : Prop :=
  ∀ {s t : State}, Alike J s t → J { s with outOffset := 0 } { t with outOffset := 0 }

section Alike
variable {J : State → State → Prop} {s t : State}

theorem Alike.exists_mems (h : Alike J s t) : ∃ m o, t = s.withMems m o := ⟨_, _, h.same⟩

/-- The same update of registers in both states. -/
theorem Alike.update (hJ : InputCoherent J) (h : Alike J s t) (f : State → State)
    (hf : ∀ m o, f (s.withMems m o) = (f s).withMems m o := by intros; rfl)
    (hv : ∀ u, (f u).memView = u.memView := by intros; rfl) : Alike J (f s) (f t) := by
  refine ⟨?_, hJ.congr h.rel (hv s) (hv t)⟩
  obtain ⟨⟨hin, hout⟩, -⟩ := memView_eq_iff.1 (hv t)
  rw [hin, hout, ← hf, ← h.same]

theorem Alike.put (hJ : Coherent J) (h : Alike J s t) (v : Byte) (hr : s.outOffset.toNat < s.outCapacity.toNat) :
    Alike J (putOut v s) (putOut v t) := by
  refine ⟨?_, hJ.put v h hr⟩
  obtain ⟨m, o, rfl⟩ := h.exists_mems
  rfl

theorem Alike.restart (hR : Restartable J) (h : Alike J s t) :
    Alike J { s with outOffset := 0 } { t with outOffset := 0 } := by
  refine ⟨?_, hR h⟩
  obtain ⟨m, o, rfl⟩ := h.exists_mems
  rfl

/-- Where nothing is written, what `J` is about stands still. -/
theorem InputCoherent.pin (hJ : InputCoherent J) (s : State) :
    InputCoherent fun u v => J u v ∧ u.memView = s.memView where
  congr h hu hv := ⟨hJ.congr h.1 hu hv, hu.trans h.2⟩
  readIn h := hJ.readIn ⟨h.same, h.rel.1⟩

end Alike

/-! ## Results and outcomes that agree -/

/-- Two results of one operation: the same value, error or refusal, in states related by `R`. -/
inductive Res.Both {α : Type} (R : State → State → Prop) : Res α → Res α → Prop
  | ok (a : α) {s t : State} (h : R s t) : Res.Both R (.ok a s) (.ok a t)
  | raised (e : ErrorKind) {s t : State} (h : R s t) : Res.Both R (.raised e s) (.raised e t)
  | refused (r : Refusal) : Res.Both R (.refused r) (.refused r)

/-- Two outcomes of one row: related states, an error taken in related states, or the same refusal. -/
inductive OutcomesAgree (R : State → State → Prop) :
    Host.Outcome State Fault Refusal → Host.Outcome State Fault Refusal → Prop
  | next {s t : State} (h : R s t) : OutcomesAgree R (.next s) (.next t)
  | error (e : ErrorKind) {s t : State} (h : R s t) : OutcomesAgree R (.next (takeError e s)) (.next (takeError e t))
  | refused (r : Refusal) : OutcomesAgree R (.refused r) (.refused r)

/-- Two choices by equivalent tests are related where their branches are. -/
theorem ite_related {α : Type} {R : α → α → Prop} {c d : Prop} [Decidable c] [Decidable d] {x x' y y' : α}
    (hc : c ↔ d) (h : c → R x x') (h' : ¬c → R y y') : R (if c then x else y) (if d then x' else y') := by
  by_cases hx : c
  · rw [if_pos hx, if_pos (hc.1 hx)]; exact h hx
  · rw [if_neg hx, if_neg (mt hc.2 hx)]; exact h' hx

section Both
variable {α β : Type} {R : State → State → Prop}

theorem Res.Both.imp {R' : State → State → Prop} {x y : Res α} (h : x.Both R y) (hi : ∀ s t, R s t → R' s t) :
    x.Both R' y := by
  cases h with
  | ok a h => exact .ok a (hi _ _ h)
  | raised e h => exact .raised e (hi _ _ h)
  | refused r => exact .refused r

/-- A sequence: the relation `R'` after the first part may say more than `R`, for the rest to use. -/
theorem Res.Both.bind {R' : State → State → Prop} {x y : Res α} {f g : α → State → Res β} (h : x.Both R' y)
    (hf : ∀ a s t, R' s t → (f a s).Both R (g a t)) (hi : ∀ s t, R' s t → R s t := by exact fun _ _ h => h) :
    (x.bind f).Both R (y.bind g) := by
  cases h with
  | ok a h => exact hf a _ _ h
  | raised e h => exact .raised e (hi _ _ h)
  | refused r => exact .refused r

theorem Res.Both.outcome {x y : Res Unit} (h : x.Both R y) : OutcomesAgree R x.outcome y.outcome := by
  cases h with
  | ok a h => exact .next h
  | raised e h => exact .error e h
  | refused r => exact .refused r

theorem Res.Both.outcomeWith {x y : Res α} (h : x.Both R y) {f : α → State → State}
    (hf : ∀ a s t, R s t → R (f a s) (f a t)) : OutcomesAgree R (x.outcomeWith f) (y.outcomeWith f) :=
  (h.bind fun a s t hr => .ok () (hf a s t hr)).outcome

end Both

/-! ## The bit reader -/

section Reader
variable {J : State → State → Prop} {s t : State}

theorem loadByte_alike (hJ : InputCoherent J) (h : Alike J s t) : Alike J (brLoadByte s) (brLoadByte t) := by
  have hread := hJ.readIn h s.byteStreamOffset.toNat
  refine ⟨?_, hJ.congr h.rel rfl rfl⟩
  obtain ⟨m, o, rfl⟩ := h.exists_mems
  unfold brLoadByte
  rw [show (s.withMems m o).byteStreamOffset = s.byteStreamOffset from rfl, hread]
  rfl

theorem load_alike (hJ : InputCoherent J) (k : Nat) (h : Alike J s t) : Alike J (brLoad k s) (brLoad k t) := by
  induction k generalizing s t with
  | zero => exact h
  | succ k ih => exact ih (loadByte_alike hJ h)

theorem brRead_alike (hJ : InputCoherent J) (n : Nat) (h : Alike J s t) :
    (brRead n s).Both (Alike J) (brRead n t) := by
  have hload := load_alike hJ ((n + 7) / 8) h
  obtain ⟨m, o, rfl⟩ := h.exists_mems
  exact ite_related .rfl (fun _ => .raised _ h) fun _ => ite_related .rfl (fun _ => .raised _ h) fun _ =>
    ite_related .rfl (fun _ => .refused _) fun _ => .ok _ hload

theorem brFill_alike (hJ : InputCoherent J) (fuel n : Nat) (h : Alike J s t) :
    (brFill fuel n s).Both (Alike J) (brFill fuel n t) := by
  induction fuel generalizing s t with
  | zero => exact .ok _ h
  | succ fuel ih =>
    have hread := brRead_alike hJ 8 h
    obtain ⟨m, o, rfl⟩ := h.exists_mems
    exact ite_related .rfl (fun _ => hread.bind fun _ _ _ h1 => ih h1) fun _ => .ok _ h

theorem brTake_alike (hJ : InputCoherent J) (n : Nat) (h : Alike J s t) : Alike J (brTake n s) (brTake n t) :=
  h.update hJ (brTake n)

theorem brFlush_alike (hJ : InputCoherent J) (h : Alike J s t) : Alike J (brFlush s) (brFlush t) := h.update hJ brFlush

theorem brGetValue_alike (hJ : InputCoherent J) (n : Nat) (h : Alike J s t) :
    (brGetValue n s).Both (Alike J) (brGetValue n t) := by
  have hfill := brFill_alike hJ 4 n h
  obtain ⟨m, o, rfl⟩ := h.exists_mems
  refine ite_related .rfl (fun _ => .raised _ h) fun _ => ite_related .rfl (fun _ => .ok _ h) fun _ =>
    ite_related .rfl (fun _ => .raised _ h) fun _ => hfill.bind fun _ s1 t1 h1 => ?_
  have htake := brTake_alike hJ n h1
  obtain ⟨m, o, rfl⟩ := h1.exists_mems
  exact .ok _ htake

theorem brReadByte_alike (hJ : InputCoherent J) (h : Alike J s t) : (brReadByte s).Both (Alike J) (brReadByte t) :=
  (brGetValue_alike hJ 8 h).bind fun _ _ _ h1 => .ok _ h1

theorem takeBits_alike (hJ : InputCoherent J) (k : Nat) (h : Alike J s t) :
    (takeBits k s).Both (Alike J) (takeBits k t) := by
  induction k generalizing s t with
  | zero => exact .ok _ h
  | succ k ih => exact (brGetValue_alike hJ 1 h).bind fun _ _ _ h1 => ih h1

theorem takeBytes_alike (hJ : InputCoherent J) (k : Nat) (h : Alike J s t) :
    (takeBytes k s).Both (Alike J) (takeBytes k t) := by
  induction k generalizing s t with
  | zero => exact .ok _ h
  | succ k ih => exact (brReadByte_alike hJ h).bind fun _ _ _ h1 => ih h1

/-! ## Symbols and trees -/

theorem htMatchLoop_alike (hJ : InputCoherent J) (T : TreeStore) (fuel : Nat) :
    ∀ (L c : Nat) {s t : State}, Alike J s t →
      (htMatchLoop T fuel L c s).Both (Alike J) (htMatchLoop T fuel L c t) := by
  induction fuel with
  | zero => exact fun _ _ _ _ h => .raised _ h
  | succ fuel ih =>
    intro L c s t h
    refine (brGetValue_alike hJ 1 h).bind fun b s1 t1 h1 => ?_
    cases T.lookup (L + 1) (2 * c + b) with
    | some sym => exact .ok _ h1
    | none => exact ih _ _ h1

theorem htMatch_alike (hJ : InputCoherent J) (T : TreeId) (h : Alike J s t) :
    (htMatch T s).Both (Alike J) (htMatch T t) := by
  have hloop := htMatchLoop_alike hJ (s.tree T) Config.maxCodeSize 0 0 h
  obtain ⟨m, o, rfl⟩ := h.exists_mems
  exact ite_related .rfl (fun _ => hloop) fun _ => .refused _

theorem setTree_alike (hJ : InputCoherent J) (T : TreeId) (x : TreeStore) (h : Alike J s t) :
    Alike J (s.setTree T x) (t.setTree T x) := by
  cases T <;> exact h.update hJ (State.setTree · _ x)

theorem htBuild_alike (hJ : InputCoherent J) (T : TreeId) (lengths : List (BitVec 8)) (h : Alike J s t) :
    (htBuild T lengths s).Both (Alike J) (htBuild T lengths t) := by
  refine ite_related .rfl (fun _ => .raised _ h) fun _ =>
    ite_related .rfl (fun _ => .ok _ (setTree_alike hJ T _ h)) fun _ => ?_
  have hfree := (setTree_alike hJ T (freeTree s) h).update hJ takeFree
  obtain ⟨m, o, rfl⟩ := h.exists_mems
  exact .ok _ hfree

/-! ## Output -/

theorem copyLoop_alike (hJ : Coherent J) (k d : Nat) (h : Alike J s t) (h1 : 1 ≤ d) (hd : d ≤ s.outOffset.toNat)
    (hr : s.outOffset.toNat + k ≤ s.outCapacity.toNat) : Alike J (copyLoop k d s) (copyLoop k d t) := by
  induction k generalizing s t with
  | zero => exact h
  | succ k ih =>
    have hlt := s.outCapacity.isLt
    have hread := hJ.readOut h (s.outOffset.toNat - d) (by omega)
    have hoff := putOut_offset (v := memReadOut (s.outOffset.toNat - d) s) (s := s) (by omega)
    have hrest := ih (h.put hJ (memReadOut (s.outOffset.toNat - d) s) (by omega)) (by omega)
      (by rw [hoff, putOut_outCapacity]; omega)
    obtain ⟨m, o, rfl⟩ := h.exists_mems
    show Alike J _ (copyLoop k d (putOut (memReadOut (s.outOffset.toNat - d) (s.withMems m o)) (s.withMems m o)))
    rw [hread]
    exact hrest

theorem freeCopy_alike (hJ : Coherent J) (k : Nat) (h : Alike J s t)
    (hr : s.outOffset.toNat + k ≤ s.outCapacity.toNat) : Alike J (freeCopy k s) (freeCopy k t) := by
  induction k generalizing s t with
  | zero => exact h
  | succ k ih =>
    have hlt := s.outCapacity.isLt
    have hoff := putOut_offset (v := Config.freeByte s.freeCount) (s := s) (by omega)
    have hput := (h.put hJ (Config.freeByte s.freeCount) (by omega)).update hJ.toInputCoherent takeFree
    have hrest := ih hput (by rw [takeFree_outOffset, hoff, takeFree_outCapacity, putOut_outCapacity]; omega)
    obtain ⟨m, o, rfl⟩ := h.exists_mems
    exact hrest

theorem backReference_alike (hJ : Coherent J) (length distance : Nat) (h : Alike J s t) :
    (backReference length distance s).Both (Alike J) (backReference length distance t) := by
  have hfree := freeCopy_alike hJ length h
  have hcopy := copyLoop_alike hJ length distance h
  obtain ⟨m, o, rfl⟩ := h.exists_mems
  exact ite_related .rfl (fun _ => .raised _ h) fun hd => ite_related .rfl (fun _ => .raised _ h) fun hr =>
    ite_related .rfl (fun _ => .ok _ (hfree (Nat.not_lt.1 hr))) fun hz =>
      .ok _ (hcopy (Nat.one_le_iff_ne_zero.2 hz) (Nat.not_lt.1 hd) (Nat.not_lt.1 hr))

/-- The reader changes nothing `J` is about, and reads IN only. -/
theorem brReadByte_pinned (hJ : InputCoherent J) (h : Alike J s t) :
    (brReadByte s).Both (fun u v => Alike J u v ∧ u.memView = s.memView) (brReadByte t) :=
  (brReadByte_alike (hJ.pin s) ⟨h.same, h.rel, rfl⟩).imp fun _ _ hu => ⟨⟨hu.same, hu.rel.1⟩, hu.rel.2⟩

/-- The data of a stored block, where it fits in OUT. -/
theorem storedLoop_alike (hJ : Coherent J) (k : Nat) (h : Alike J s t)
    (hr : s.outOffset.toNat + k ≤ s.outCapacity.toNat) :
    (storedLoop k s).Both (Alike J) (storedLoop k t) := by
  induction k generalizing s t with
  | zero => exact .ok _ h
  | succ k ih =>
    refine (brReadByte_pinned hJ.toInputCoherent h).bind (fun b u v ⟨hu, hview⟩ => ?_) fun _ _ h => h.1
    obtain ⟨-, ⟨-, hoff, hcap⟩, -⟩ := memView_eq_iff.1 hview
    have hlt := s.outCapacity.isLt
    refine ih (hu.put hJ b (by rw [hoff, hcap]; omega)) ?_
    rw [putOut_offset (by rw [hoff]; omega), putOut_outCapacity, hoff, hcap]
    omega

/-! ## The checksum -/

theorem adlerUpdate_alike (hJ : InputCoherent J) (b : Byte) (h : Alike J s t) :
    Alike J (adlerUpdate b s) (adlerUpdate b t) := by
  have hadd := h.update hJ (adlerAdd b)
  have hreduce := hadd.update hJ fun u => { adlerReduce u with adlerChunk := 0 }
  obtain ⟨m, o, rfl⟩ := h.exists_mems
  exact ite_related .rfl (fun _ => hreduce) fun _ => hadd

theorem adlerPass_alike (hJ : Coherent J) (k a : Nat) (h : Alike J s t) (ha : a + k ≤ s.outOffset.toNat) :
    Alike J (adlerPass k a s) (adlerPass k a t) := by
  induction k generalizing a s t with
  | zero => exact h
  | succ k ih =>
    have hoff : (adlerUpdate (memReadOut a s) s).outOffset = s.outOffset := by rw [sameButAdler_update]
    simp only [adlerPass, hJ.readOut h a (by omega)]
    exact ih (a + 1) (adlerUpdate_alike hJ.toInputCoherent _ h) (by rw [hoff]; omega)

theorem adlerOfOut_alike (hJ : Coherent J) (h : Alike J s t) : Alike J (adlerOfOut s) (adlerOfOut t) := by
  have hpass := adlerPass_alike hJ s.outOffset.toNat 0 (h.update hJ.toInputCoherent (adlerInit 1)) (Nat.zero_add _).le
  obtain ⟨m, o, rfl⟩ := h.exists_mems
  exact hpass.update hJ.toInputCoherent adlerReduce

/-! ## The sequencer -/

theorem endOfBlock_alike (hJ : InputCoherent J) (h : Alike J s t) : Alike J (endOfBlock s) (endOfBlock t) := by
  have hdone (u v : State) (hu : Alike J u v) :
      Alike J { u with seqState := if u.lastBlockFlag then .trailer else .expectBlockHeader }
        { v with seqState := if v.lastBlockFlag then .trailer else .expectBlockHeader } :=
    hu.update hJ fun w => { w with seqState := if w.lastBlockFlag then .trailer else .expectBlockHeader }
  refine hdone _ _ ?_
  have hdiscard := h.update hJ discardTrees
  obtain ⟨m, o, rfl⟩ := h.exists_mems
  exact ite_related .rfl (fun _ => hdiscard) fun _ => h

theorem appendLengths_alike (hJ : InputCoherent J) (r : Nat) (v : BitVec 4) (h : Alike J s t) :
    Alike J (appendLengths r v s) (appendLengths r v t) := by
  induction r generalizing s t with
  | zero => exact h
  | succ r ih => exact ih (h.update hJ (appendLength v))

theorem codeLengthLoop_alike (hJ : InputCoherent J) (h : Alike J s t) :
    Alike J (codeLengthLoop s) (codeLengthLoop t) := by
  have hgo (p : Place) := h.update hJ (goto p)
  obtain ⟨m, o, rfl⟩ := h.exists_mems
  exact ite_related .rfl (fun _ => hgo .clCode) fun _ => hgo .dyntrees

theorem repeatLength_alike (hJ : InputCoherent J) (r : Nat) (v : BitVec 4) (h : Alike J s t) :
    (repeatLength r v s).Both (Alike J) (repeatLength r v t) := by
  have hdone := codeLengthLoop_alike hJ (appendLengths_alike hJ r v h)
  obtain ⟨m, o, rfl⟩ := h.exists_mems
  exact ite_related .rfl (fun _ => .raised _ h) fun _ => .ok _ hdone

end Reader

/-! ## The rows -/

/-- LEN.k is the length element of index `k`. -/
theorem exec_of_lenIndex {i : Instr} {k : Nat} (h : i.lenIndex = some k) : exec i = lengthElement k := by
  cases i <;> cases h <;> rfl

/-- DIST.j is the distance element of symbol `j`. -/
theorem exec_of_distIndex {i : Instr} {j : Nat} (h : i.distIndex = some j) : exec i = distanceElement j := by
  cases i <;> cases h <;> rfl

section Rows
variable {J : State → State → Prop} {s t : State}

theorem blockHeader_alike (hJ : InputCoherent J) (last : Bool) (type : BitVec 2) (h : Alike J s t) :
    (blockHeader last type s).Both (Alike J) (blockHeader last type t) :=
  (brGetValue_alike hJ 3 h).bind fun _ _ _ h1 => .ok _ (h1.update hJ (setBlockFlags last type))

theorem execStored_alike (hJ : Coherent J) (len nlen : BitVec 16) (h : Alike J s t) :
    OutcomesAgree (Alike J) (execStored len nlen s) (execStored len nlen t) := by
  have hI := hJ.toInputCoherent
  refine ((brGetValue_alike hI 16 (brFlush_alike hI h)).bind fun _ s1 t1 h1 =>
    (brGetValue_alike hI 16 (h1.update hI fun u => { u with storedLen := len })).bind fun _ s2 t2 h2 => ?_).outcome
  have h3 := h2.update hI fun u => { u with storedNlen := nlen }
  generalize ({ s2 with storedNlen := nlen } : State) = s3, ({ t2 with storedNlen := nlen } : State) = t3 at h3
  have hcopy := storedLoop_alike hJ s3.storedLen.toNat h3
  obtain ⟨m, o, rfl⟩ := h3.exists_mems
  exact ite_related .rfl (fun _ => .raised _ h3) fun _ => ite_related .rfl (fun _ => .raised _ h3) fun hr =>
    ite_related .rfl (fun _ => .raised _ h3) fun _ =>
      (hcopy (Nat.not_lt.1 hr)).bind fun _ _ _ h4 => .ok _ (endOfBlock_alike hI h4)

theorem execDynhdr_alike (hJ : InputCoherent J) (hlit hdist : BitVec 5) (hclen : BitVec 4) (h : Alike J s t) :
    OutcomesAgree (Alike J) (execDynhdr hlit hdist hclen s) (execDynhdr hlit hdist hclen t) := by
  refine ((brGetValue_alike hJ 14 h).bind fun _ s1 t1 h1 => ?_).outcome
  have h2 := h1.update hJ fun u => { u with
    numLiteralCodes := literalCodesOf hlit, numDistanceCodes := distanceCodesOf hdist
    numCodeLengthCodes := codeLengthCodesOf hclen }
  exact ite_related .rfl (fun _ => .raised _ h2) fun _ => .ok _ (h2.update hJ (goto (.prelen 0)))

theorem execPrelen_alike (hJ : InputCoherent J) (length : BitVec 3) (h : Alike J s t) :
    OutcomesAgree (Alike J) (execPrelen length s) (execPrelen length t) := by
  refine ((brGetValue_alike hJ 3 h).bind fun _ s1 t1 h1 => ?_).outcome
  have h2 := h1.update hJ (storePreLength s1.place.prelenIndex length)
  have hbuild := htBuild_alike hJ .pre (preCodeLengths (storePreLength s1.place.prelenIndex length s1)) h2
  obtain ⟨m, o, rfl⟩ := h1.exists_mems
  exact ite_related .rfl (fun _ => .ok _ (h2.update hJ (goto (.prelen (s1.place.prelenIndex + 1))))) fun _ =>
    hbuild.bind fun _ _ _ h3 => .ok _ (h3.update hJ fun u => goto .clCode { u with clIndex := 0 })

/-- A repeat after its extra bits (42_deflate_framing.md R185, R187, R188). -/
theorem repeatRow_alike (hJ : InputCoherent J) (n : Nat) (count : Nat → Nat) (v : State → BitVec 4)
    (hv : ∀ u m o, v (State.withMems u m o) = v u) (h : Alike J s t) :
    ((brGetValue n s).bind fun e u => repeatLength (count e) (v u) u).Both (Alike J)
      ((brGetValue n t).bind fun e u => repeatLength (count e) (v u) u) := by
  refine (brGetValue_alike hJ n h).bind fun e s1 t1 h1 => ?_
  rw [h1.same, hv, ← h1.same]
  exact repeatLength_alike hJ _ _ h1

theorem execClRep_alike (hJ : InputCoherent J) (h : Alike J s t) :
    OutcomesAgree (Alike J) (execClRep s) (execClRep t) := by
  have hrow := repeatRow_alike hJ 2 (3 + ·) previousLength (fun _ _ _ => rfl) h
  obtain ⟨m, o, rfl⟩ := h.exists_mems
  exact (ite_related .rfl (fun _ => .raised _ h) fun _ => hrow).outcome

theorem takeFreeLengths_alike (hJ : InputCoherent J) (h : Alike J s t) :
    Alike J (takeFreeLengths s) (takeFreeLengths t) := by
  have hfree := h.update hJ takeFree
  obtain ⟨m, o, rfl⟩ := h.exists_mems
  exact ite_related .rfl (fun _ => hfree) fun _ => h

theorem execDyntrees_alike (hJ : InputCoherent J) (h : Alike J s t) :
    OutcomesAgree (Alike J) (execDyntrees s) (execDyntrees t) := by
  have hlit := htBuild_alike hJ .dynLit (literalLengths s) h
  obtain ⟨m, o, rfl⟩ := h.exists_mems
  refine (ite_related .rfl (fun _ => .raised _ h) fun _ => hlit.bind fun _ s1 t1 h1 => ?_).outcome
  have hdist := htBuild_alike hJ .dynDist (distanceLengths s1) h1
  obtain ⟨m, o, rfl⟩ := h1.exists_mems
  exact hdist.bind fun _ _ _ h2 => .ok _ ((takeFreeLengths_alike hJ h2).update hJ (goto .litCode))

theorem execLit_alike (hJ : Coherent J) (byte : Byte) (h : Alike J s t) :
    OutcomesAgree (Alike J) (execLit byte s) (execLit byte t) := by
  have hput := h.put hJ byte
  obtain ⟨m, o, rfl⟩ := h.exists_mems
  exact ite_related .rfl (fun _ => .error _ h) fun hr =>
    .next ((hput (Nat.not_le.1 hr)).update hJ.toInputCoherent (goto .litCode))

theorem lengthElement_alike (hJ : InputCoherent J) (k : Nat) (h : Alike J s t) :
    OutcomesAgree (Alike J) (lengthElement k s) (lengthElement k t) :=
  (brGetValue_alike hJ (lenExtra k) h).outcomeWith fun e _ _ h1 =>
    h1.update hJ fun u => goto .distCode { u with length := BitVec.ofNat 9 (lenBase k + e) }

theorem distanceElement_alike (hJ : InputCoherent J) (j : Nat) (h : Alike J s t) :
    OutcomesAgree (Alike J) (distanceElement j s) (distanceElement j t) :=
  (brGetValue_alike hJ (distExtra j) h).outcomeWith fun e _ _ h1 =>
    h1.update hJ fun u => goto .matchCopy { u with distance := BitVec.ofNat 16 (distBase j + e) }

theorem execMatchCopy_alike (hJ : Coherent J) (h : Alike J s t) :
    OutcomesAgree (Alike J) (execMatchCopy s) (execMatchCopy t) := by
  have hcopy := backReference_alike hJ s.length.toNat s.distance.toNat h
  obtain ⟨m, o, rfl⟩ := h.exists_mems
  exact hcopy.outcomeWith fun _ _ _ h1 => h1.update hJ.toInputCoherent (goto .litCode)

theorem fixedCode_alike (hJ : InputCoherent J) (n symbol : Nat) (h : Alike J s t) :
    OutcomesAgree (Alike J) (fixedCode n symbol s) (fixedCode n symbol t) :=
  (takeBits_alike hJ n h).outcomeWith fun _ _ _ h1 => h1.update hJ (setResult symbol)

theorem execTrailer_alike (hJ : Coherent J) (hi lo : BitVec 16) (h : Alike J s t) :
    OutcomesAgree (Alike J) (execTrailer hi lo s) (execTrailer hi lo t) := by
  have hI := hJ.toInputCoherent
  have hflush := brFlush_alike hI h
  have hbytes := takeBytes_alike hI 4 hflush
  obtain ⟨m, o, rfl⟩ := h.exists_mems
  refine (ite_related .rfl (fun _ => .raised _ hflush) fun _ => hbytes.bind fun _ s2 t2 h2 => ?_).outcome
  have h3 := adlerOfOut_alike hJ h2
  have hdone := h3.update hI fun u => { u with outCount := u.outOffset, seqState := .done }
  generalize adlerOfOut s2 = s3, adlerOfOut t2 = t3 at h3 hdone
  obtain ⟨m, o, rfl⟩ := h3.exists_mems
  exact ite_related .rfl (fun _ => .raised _ h3) fun _ => .ok _ hdone

theorem execBrInit_alike (hJ : InputCoherent J) (off : Word) (h : Alike J s t) :
    OutcomesAgree (Alike J) (execBrInit off s) (execBrInit off t) := by
  have hpast := h.update hJ brInitPastEnd
  have hinit := h.update hJ (brInit off)
  obtain ⟨m, o, rfl⟩ := h.exists_mems
  exact ite_related .rfl (fun _ => .next hpast) fun _ => .next hinit

theorem execHtBuild_alike (hJ : InputCoherent J) (T : TreeId) (lengths : List (BitVec 8)) (h : Alike J s t) :
    OutcomesAgree (Alike J) (execHtBuild T lengths s) (execHtBuild T lengths t) := by
  refine ((htBuild_alike hJ T lengths h).bind fun _ s1 t1 h1 => ?_).outcome
  obtain ⟨m, o, rfl⟩ := h1.exists_mems
  exact ite_related .rfl (fun _ => .ok _ h1) fun _ => .refused _

theorem execZhdr_alike (hJ : InputCoherent J) (hR : Restartable J) (cinfo : BitVec 3) (fcheck : BitVec 5)
    (flevel : BitVec 2) (h : Alike J s t) :
    OutcomesAgree (Alike J) (execZhdr cinfo fcheck flevel s) (execZhdr cinfo fcheck flevel t) := by
  have hgo := ((h.update hJ (brInit 2)).restart hR).update hJ fun u => { u with seqState := .expectBlockHeader }
  obtain ⟨m, o, rfl⟩ := h.exists_mems
  exact ite_related .rfl (fun _ => .error _ h) fun _ => .next hgo

theorem execDecompress_alike (hJ : InputCoherent J) (hR : Restartable J) (x : BitVec 31) (h : Alike J s t) :
    OutcomesAgree (Alike J) (execDecompress x s) (execDecompress x t) := by
  have hstart := (h.update hJ fun u => { startCall u with outOffset := u.outOffset }).restart hR
  obtain ⟨m, o, rfl⟩ := h.exists_mems
  exact ite_related .rfl (fun _ => .next h) fun _ => .next hstart

/-- An error taken where the header is too short, or another. -/
theorem error_ite_agree {n : Nat} (e e' : ErrorKind) (h : Alike J s t) :
    OutcomesAgree (Alike J) (if s.inSize.toNat < n then .next (takeError e s) else .next (takeError e' s))
      (if t.inSize.toNat < n then .next (takeError e t) else .next (takeError e' t)) := by
  obtain ⟨m, o, rfl⟩ := h.exists_mems
  exact ite_related .rfl (fun _ => .error e h) fun _ => .error e' h

/-- Every row of the opcode table ends alike in states that differ in the memories only, where these agree on what an
instruction may read. -/
theorem exec_alike (hJ : Coherent J) {i : Instr} (hR : i.restarts = true → Restartable J) (h : Alike J s t) :
    OutcomesAgree (Alike J) (exec i s) (exec i t) := by
  have hI := hJ.toInputCoherent
  cases i with
  | zhdr cinfo fcheck flevel => exact execZhdr_alike hI (hR rfl) cinfo fcheck flevel h
  | decompress x => exact execDecompress_alike hI (hR rfl) x h
  | zhdrBadwindow => exact error_ite_agree _ _ h
  | zhdrFdict => exact error_ite_agree _ _ h
  | zhdrBadcm => exact error_ite_agree _ _ h
  | bhdrStored last =>
    exact (blockHeader_alike hI last 0 h).outcomeWith fun _ _ _ h1 =>
      h1.update hI fun u => { u with seqState := .storedBlock }
  | bhdrFixed last =>
    exact (blockHeader_alike hI last 1 h).outcomeWith fun _ _ _ h1 =>
      h1.update hI fun u => goto .litCode { u with seqState := .fixedHuffmanBlock }
  | bhdrDynamic last =>
    exact (blockHeader_alike hI last 2 h).outcomeWith fun _ _ _ h1 =>
      h1.update hI fun u => goto .dynhdr { u with seqState := .dynamicHuffmanBlock }
  | bhdrReserved last => exact ((blockHeader_alike hI last 3 h).bind fun _ _ _ h1 => .raised _ h1).outcome
  | stored len nlen => exact execStored_alike hJ len nlen h
  | dynhdr hlit hdist hclen => exact execDynhdr_alike hI hlit hdist hclen h
  | prelen length => exact execPrelen_alike hI length h
  | clLen length => exact .next (codeLengthLoop_alike hI (h.update hI (appendLength length)))
  | clRep => exact execClRep_alike hI h
  | clZrep3 => exact (repeatRow_alike hI 3 (3 + ·) (fun _ => 0) (fun _ _ _ => rfl) h).outcome
  | clZrep11 => exact (repeatRow_alike hI 7 (11 + ·) (fun _ => 0) (fun _ _ _ => rfl) h).outcome
  | lit byte => exact execLit_alike hJ byte h
  | eob => exact .next (endOfBlock_alike hI h)
  | len0 | len1 | len2 | len3 | len4 | len5 | len6 | len7 | len8 | len9 | len10 | len11 | len12 | len13 |
    len14 | len15 | len16 | len17 | len18 | len19 | len20 | len21 | len22 | len23 | len24 | len25 | len26 |
    len27 | len28 =>
    rw [exec_of_lenIndex rfl]
    exact lengthElement_alike hI _ h
  | dist0 | dist1 | dist2 | dist3 | dist4 | dist5 | dist6 | dist7 | dist8 | dist9 | dist10 | dist11 | dist12 |
    dist13 | dist14 | dist15 | dist16 | dist17 | dist18 | dist19 | dist20 | dist21 | dist22 | dist23 | dist24 |
    dist25 | dist26 | dist27 | dist28 | dist29 =>
    rw [exec_of_distIndex rfl]
    exact distanceElement_alike hI _ h
  | litlenRsvd286 | litlenRsvd287 | distRsvd30 | distRsvd31 => exact .error _ h
  | trailer hi lo => exact execTrailer_alike hJ hi lo h
  | fixlit7 code | fixlit8a code | fixlit8b code | fixlit9 code | fixdist5 code => exact fixedCode_alike hI _ _ h
  | brInit off => exact execBrInit_alike hI off h
  | brRead n => exact (brRead_alike hI n h).outcome
  | brGetValue n => exact (brGetValue_alike hI n h).outcomeWith fun v _ _ h1 => h1.update hI (setResult v)
  | brFlush => exact .next (brFlush_alike hI h)
  | brReadByte => exact (brReadByte_alike hI h).outcomeWith fun b _ _ h1 => h1.update hI (setResult b.toNat)
  | brRemainingBytes => exact .next (h.update hI fun u => setResult (brRemainingBytes u) u)
  | htBuild T lengths => exact execHtBuild_alike hI T lengths h
  | htDecodeSymbol T =>
    exact (htMatch_alike hI T h).outcomeWith fun m _ _ h1 => h1.update hI (setResult m.symbol.toNat)
  | dyntrees => exact execDyntrees_alike hI h
  | matchCopy => exact execMatchCopy_alike hJ h
  | lzCopy length distance => exact (backReference_alike hJ _ _ h).outcome
  | adlerInit initial => exact .next (h.update hI (adlerInit initial))
  | adlerUpdate byte => exact .next (adlerUpdate_alike hI byte h)
  | adlerFinal =>
    exact .next (h.update hI fun u => setResult (adlerValue (adlerReduce u)).toNat (adlerReduce u))

end Rows

end Sys2Proof.Machine
end

section
/-! The statements of 20_memory.md on IN and OUT: what is written, what is read, what has no influence. -/

namespace Sys2Proof.Machine

/-! ## The fetch and the step -/

section Step
variable {J : State → State → Prop} {s t : State}

theorem Res.Both.peek {α : Type} {R : State → State → Prop} {x y : Res α} (h : x.Both R y) (f : α → Fetch) :
    peek y f = peek x f := by
  cases h <;> rfl

theorem peekField_alike (hJ : InputCoherent J) (f : Format) (h : Alike J s t) : peekField f t = peekField f s :=
  (brGetValue_alike hJ f.width h).peek _

theorem peekHeader_alike (hJ : InputCoherent J) (h : Alike J s t) : peekHeader t = peekHeader s := by
  have hread := hJ.readIn h
  obtain ⟨m, o, rfl⟩ := h.exists_mems
  simp only [peekHeader, hread]
  rfl

theorem peekStored_alike (hJ : InputCoherent J) (h : Alike J s t) : peekStored t = peekStored s :=
  Res.Both.peek (R := Alike J) ((brGetValue_alike hJ 16 (brFlush_alike hJ h)).bind fun len _ _ h1 =>
    (brGetValue_alike hJ 16 h1).bind fun nlen _ _ h2 => .ok (len + 65536 * nlen) h2) _

theorem bigEndian_alike (hJ : InputCoherent J) (k acc : Nat) (h : Alike J s t) :
    (bigEndian k acc s).Both (Alike J) (bigEndian k acc t) := by
  induction k generalizing acc s t with
  | zero => exact .ok _ h
  | succ k ih => exact (brReadByte_alike hJ h).bind fun _ _ _ h1 => ih _ h1

theorem peekTrailer_alike (hJ : InputCoherent J) (h : Alike J s t) : peekTrailer t = peekTrailer s := by
  have hword := (bigEndian_alike hJ 4 0 (brFlush_alike hJ h)).peek (fetched .trailer32)
  obtain ⟨m, o, rfl⟩ := h.exists_mems
  exact ite_related .rfl (fun _ => rfl) fun _ => hword

theorem codeInstr_alike (hJ : InputCoherent J) (T : TreeId) (h : Alike J s t) : codeInstr T t = codeInstr T s := by
  have hm := htMatch_alike hJ T h
  unfold codeInstr
  generalize htMatch T s = x, htMatch T t = y at hm
  cases hm <;> rfl

theorem nextInBlock_alike (hJ : InputCoherent J) (h : Alike J s t) : nextInBlock t = nextInBlock s := by
  have hfield (f : Format) := peekField_alike hJ f h
  have hcode (T : TreeId) := codeInstr_alike hJ T h
  obtain ⟨m, o, rfl⟩ := h.exists_mems
  simp only [nextInBlock, hfield, hcode]
  rfl

/-- The fetch reads the stream only. -/
theorem nextInstr_alike (hJ : InputCoherent J) (h : Alike J s t) : nextInstr t = nextInstr s := by
  have hheader := peekHeader_alike hJ h
  have hfield := peekField_alike hJ .bhdr3 h
  have hstored := peekStored_alike hJ h
  have hblock := nextInBlock_alike hJ h
  have htrailer := peekTrailer_alike hJ h
  obtain ⟨m, o, rfl⟩ := h.exists_mems
  simp only [nextInstr, hheader, hfield, hstored, hblock, htrailer]
  rfl

/-- What the sequencer adds after a row keeps the agreement of the outcomes. -/
theorem latchSymbol_agree (hJ : InputCoherent J) (p : Place) (h : Alike J s t) :
    OutcomesAgree (Alike J) (.next (latchSymbol p s)) (.next (latchSymbol p t)) := by
  have hcl := h.update hJ fun u => goto .clSym { u with preSymbol := BitVec.ofNat 9 u.unitResult }
  have hlit := h.update hJ fun u => goto .litSym { u with symbol := BitVec.ofNat 9 u.unitResult }
  have hdist := h.update hJ fun u => goto .distSym { u with distSymbol := BitVec.ofNat 5 u.unitResult }
  obtain ⟨m, o, rfl⟩ := h.exists_mems
  refine ite_related (R := fun u v => OutcomesAgree (Alike J) (.next u) (.next v)) .rfl (fun _ => .next h) fun _ => ?_
  cases p with
  | clCode => exact .next hcl
  | litCode => exact .next hlit
  | distCode =>
    exact ite_related (R := fun u v => OutcomesAgree (Alike J) (.next u) (.next v)) .rfl (fun _ => .error _ h)
      fun _ => .next hdist
  | _ => exact .next h

theorem afterRow_agree (hJ : InputCoherent J) (h : Alike J s t) {x y : Host.Outcome State Fault Refusal}
    (hxy : OutcomesAgree (Alike J) x y) :
    OutcomesAgree (Alike J) (mapNext x (afterRow s)) (mapNext y (afterRow t)) := by
  cases hxy with
  | next hu =>
    have hlatch := latchSymbol_agree hJ s.place hu
    obtain ⟨m, o, rfl⟩ := h.exists_mems
    show OutcomesAgree _ (.next (afterRow s _)) (.next (afterRow s _))
    cases hb : s.inHuffmanBlock with
    | true => simpa only [afterRow, hb, if_true] using hlatch
    | false => simpa only [afterRow_outside_block hb] using .next hu
  | error e hu =>
    simp only [mapNext, afterRow_takeError]
    exact .error e hu
  | refused r => exact .refused r

/-- One row of the engine ends alike. -/
theorem engineStep_agree (hJ : Coherent J) (hR : ∀ i, nextInstr s = .instr i → i.restarts = true → Restartable J)
    (h : Alike J s t) : OutcomesAgree (Alike J) (engineStep s) (engineStep t) := by
  have hI := hJ.toInputCoherent
  unfold engineStep
  rw [nextInstr_alike hI h]
  cases hi : nextInstr s with
  | instr i => exact afterRow_agree hI h (exec_alike hJ (hR i hi) h)
  | raise e => exact .error e h
  | refuse r => exact .refused r
  | none => exact .next h

end Step

/-! ## What a row writes -/

/-- Two states alike in the memories too, of which `P` holds. -/
def Kept (P : State → Prop) (s t : State) : Prop := t.memView = s.memView ∧ P s

section Kept
variable {P : State → Prop}

theorem coherent_kept (hc : ∀ {s s' : State}, s'.memView = s.memView → P s → P s')
    (hput : ∀ (v : Byte) {s : State}, s.outOffset.toNat < s.outCapacity.toNat → P s → P (putOut v s)) :
    Coherent (Kept P) where
  congr h hs ht := ⟨ht.trans (h.1.trans hs.symm), hc hs h.2⟩
  readIn h a := by
    obtain ⟨⟨hin, -⟩, ⟨hsize, -⟩, -⟩ := memView_eq_iff.1 h.rel.1
    exact memReadIn_congr hin hsize a
  readOut h a _ := memReadOut_congr (memView_eq_iff.1 h.rel.1).1.2 a
  put v h hr := by
    obtain ⟨⟨hin, hout⟩, ⟨hsize, hoff, hcap⟩, hhost⟩ := memView_eq_iff.1 h.rel.1
    refine ⟨memView_eq_iff.2 ⟨⟨hin, ?_⟩, ⟨hsize, ?_, hcap⟩, hhost⟩, hput v hr h.rel.2⟩
    · simp only [putOut_outMem, hout, hoff]
    · simp only [putOut_outOffset, hoff]

theorem alike_kept {s : State} (h : P s) : Alike (Kept P) s s := ⟨rfl, rfl, h⟩

/-- What a row leaves has the property, or is an error taken in a state that has it. -/
theorem OutcomesAgree.kept {x y : Host.Outcome State Fault Refusal} (h : OutcomesAgree (Alike (Kept P)) x y) {t : State}
    (ht : x = .next t) : P t ∨ ∃ e u, P u ∧ t = takeError e u := by
  cases h with
  | next h => cases ht; exact .inl h.rel.2
  | error e h => cases ht; exact .inr ⟨e, _, h.rel.2, rfl⟩
  | refused r => cases ht

end Kept

/-- `u` has the input, the capacity and the host's registers of `s`. -/
def SameHostSide (s u : State) : Prop :=
  u.inMem = s.inMem ∧ u.inSize = s.inSize ∧ u.outCapacity = s.outCapacity ∧
    u.hostData = s.hostData ∧ u.inputs = s.inputs

theorem coherent_sameHostSide (s : State) : Coherent (Kept (SameHostSide s)) :=
  coherent_kept (fun hu h => by
    obtain ⟨⟨hin, -⟩, ⟨hsize, -, hcap⟩, hdata, hinputs⟩ := memView_eq_iff.1 hu
    unfold SameHostSide
    rw [hin, hsize, hcap, hdata, hinputs]
    exact h) fun _ _ _ h => h

theorem restartable_sameHostSide (s : State) : Restartable (Kept (SameHostSide s)) := fun h =>
  have ⟨hmems, ⟨hsize, _, hcap⟩, hhost⟩ := memView_eq_iff.1 h.rel.1
  ⟨memView_eq_iff.2 ⟨hmems, ⟨hsize, rfl, hcap⟩, hhost⟩, h.rel.2⟩

/-- Settles O14: a row keeps the input, the capacity and the host's registers (`exec_alike`, from a state and itself),
and so does taking an error. -/
theorem noInstructionWritesInput : Obligations.NoInstructionWritesInput := by
  intro i s t ht
  have hrow := exec_alike (coherent_sameHostSide s) (i := i) (fun _ => restartable_sameHostSide s)
    (alike_kept ⟨rfl, rfl, rfl, rfl, rfl⟩)
  obtain h | ⟨e, u, h, rfl⟩ := hrow.kept ht <;> exact h

/-! ## What a row reads of IN -/

/-- `t` holds `m` as its IN, which `s` cannot tell from its own below IN_SIZE, and the same OUT. -/
structure SameInput (m : Memory) (s t : State) : Prop where
  inMem : t.inMem = m
  epoch : m.epoch = s.inMem.epoch
  listed : ∀ a, a < s.inSize.toNat → m.lookup a = s.inMem.lookup a
  outMem : t.outMem = s.outMem

theorem coherent_sameInput (m : Memory) : Coherent (SameInput m) where
  congr := by
    intro s t s' t' h hs ht
    obtain ⟨⟨hin, hout⟩, ⟨hsize, -⟩, -⟩ := memView_eq_iff.1 hs
    obtain ⟨⟨hin', hout'⟩, -⟩ := memView_eq_iff.1 ht
    exact ⟨hin'.trans h.inMem, by rw [hin, h.epoch], by rw [hin, hsize]; exact h.listed,
      by rw [hout, hout', h.outMem]⟩
  readIn := by
    intro s t h a
    have hsize : t.inSize = s.inSize := by rw [h.same]; rfl
    by_cases ha : a < s.inSize.toNat
    · rw [memReadIn_of_lt ha, memReadIn_of_lt (hsize ▸ ha), storedIn, storedIn, h.rel.inMem, h.rel.listed a ha,
        h.rel.epoch]
    · rw [memReadIn_of_ge (Nat.not_lt.1 ha), memReadIn_of_ge (hsize ▸ Nat.not_lt.1 ha), h.rel.inMem, h.rel.epoch,
        hsize]
  readOut h a _ := memReadOut_congr h.rel.outMem a
  put := by
    intro s t v h _
    have hoff : t.outOffset = s.outOffset := by rw [h.same]; rfl
    exact ⟨h.rel.inMem, h.rel.epoch, h.rel.listed, by rw [putOut_outMem, putOut_outMem, h.rel.outMem, hoff]⟩

theorem Alike.eq_withInput {m : Memory} {s t : State} (h : Alike (SameInput m) s t) : t = { s with inMem := m } := by
  rw [h.same, h.rel.inMem, h.rel.outMem]
  rfl

theorem OutcomesAgree.eq_mapNext {m : Memory} {x y : Host.Outcome State Fault Refusal}
    (h : OutcomesAgree (Alike (SameInput m)) x y) : y = mapNext x fun t => { t with inMem := m } := by
  cases h with
  | next h => exact congrArg Host.Outcome.next h.eq_withInput
  | error e h =>
    rw [h.eq_withInput]
    rfl
  | refused r => rfl

/-- Settles O15: a row ends alike in two states whose INs agree below IN_SIZE (`exec_alike`). -/
theorem noInstructionReadsPastInput : Obligations.NoInstructionReadsPastInput := by
  intro i s m hepoch hlisted
  have hstart : Alike (SameInput m) s { s with inMem := m } := ⟨rfl, rfl, hepoch, hlisted, rfl⟩
  have hrestart : Restartable (SameInput m) := fun h => ⟨h.rel.inMem, h.rel.epoch, h.rel.listed, h.rel.outMem⟩
  exact (exec_alike (coherent_sameInput m) (fun _ => hrestart) hstart).eq_mapNext

/-! ## What a step does with OUT -/

theorem step_of_no_inputs {s : State} (h : s.inputs = []) : step s = engineStep s := by
  simp only [step, nextStep, h]

/-- The second state has the input of the first, and the bytes of OUT that the call has written. -/
def SamePriorOut (s t : State) : Prop :=
  t.inMem = s.inMem ∧ ∀ a, a < s.outOffset.toNat → memReadOut a t = memReadOut a s

theorem coherent_samePriorOut : Coherent SamePriorOut where
  congr := by
    intro s t s' t' h hs ht
    obtain ⟨⟨hin, hout⟩, ⟨-, hoff, -⟩, -⟩ := memView_eq_iff.1 hs
    obtain ⟨⟨hin', hout'⟩, -⟩ := memView_eq_iff.1 ht
    refine ⟨by rw [hin, hin', h.1], fun a ha => ?_⟩
    rw [memReadOut_congr hout', memReadOut_congr hout]
    exact h.2 a (hoff ▸ ha)
  readIn h a := memReadIn_congr h.rel.1 (by rw [h.same]; rfl) a
  readOut h := h.rel.2
  put := by
    intro s t v h hr
    have hoff : t.outOffset = s.outOffset := by rw [h.same]; rfl
    have hlt := s.outCapacity.isLt
    refine ⟨h.rel.1, fun a ha => ?_⟩
    rw [putOut_offset (by omega)] at ha
    by_cases hself : a = s.outOffset.toNat
    · subst hself
      rw [memReadOut_putOut_self, ← hoff, memReadOut_putOut_self]
    · rw [memReadOut_putOut_ne hself, memReadOut_putOut_ne (hoff ▸ hself)]
      exact h.rel.2 a (by omega)

theorem alike_samePriorOut_iff {s t : State} : Alike SamePriorOut s t ↔ SameButPriorOut s t := by
  constructor
  · intro h
    exact ⟨by rw [h.same, h.rel.1]; rfl, h.rel.2⟩
  · rintro ⟨hsame, hout⟩
    have hin : t.inMem = s.inMem := by rw [hsame]
    exact ⟨by rw [hsame]; rfl, hin, hout⟩

theorem OutcomesAgree.priorOut {x y : Host.Outcome State Fault Refusal} (h : OutcomesAgree (Alike SamePriorOut) x y)
    {s : State} (hx : x = .next s) : ∃ t, y = .next t ∧ t = { s with outMem := t.outMem } ∧
      (s.seqState ≠ .error → SameButPriorOut s t) := by
  cases h with
  | next h =>
    cases hx
    have hs := alike_samePriorOut_iff.1 h
    exact ⟨_, rfl, hs.1, fun _ => hs⟩
  | error e h =>
    cases hx
    refine ⟨_, rfl, ?_, fun hne => absurd rfl hne⟩
    rw [(alike_samePriorOut_iff.1 h).1]
    rfl
  | refused r => cases hx

/-- Settles O18: one row of the engine ends alike in the two states (`engineStep_agree`); the rows that read OUT read
below OUT_OFFSET. Neither the invariant nor that a stream is decoded is needed. -/
theorem priorOutputNeverRead : Obligations.PriorOutputNeverRead := by
  intro s1 s2 t1 _ _ hin hs ht
  have hin2 : s2.inputs = [] := by rw [hs.1]; exact hin
  rw [step_of_no_inputs hin] at ht
  rw [step_of_no_inputs hin2]
  have hrestart : Restartable SamePriorOut := fun h => ⟨h.rel.1, fun a ha => absurd ha (Nat.not_lt_zero a)⟩
  exact (engineStep_agree coherent_samePriorOut (fun _ _ _ => hrestart) (alike_samePriorOut_iff.2 hs)).priorOut ht

/-! ### OUT is written forward -/

/-- From `s` to `u` OUT has been written forward, within the capacity: below the old OUT_OFFSET and from the new one on
its bytes are as they were. -/
structure WrittenForward (s u : State) : Prop where
  capacity : u.outCapacity = s.outCapacity
  forward : s.outOffset.toNat ≤ u.outOffset.toNat
  within : u.outOffset.toNat ≤ s.outCapacity.toNat
  kept : ∀ a, a < s.outOffset.toNat ∨ u.outOffset.toNat ≤ a → memReadOut a u = memReadOut a s

theorem coherent_writtenForward (s : State) : Coherent (Kept (WrittenForward s)) := by
  refine coherent_kept (fun {u u'} hu h => ?_) fun v u hr h => ?_
  · obtain ⟨⟨-, hout⟩, ⟨-, hoff, hcap⟩, -⟩ := memView_eq_iff.1 hu
    refine ⟨hcap.trans h.capacity, hoff ▸ h.forward, hoff ▸ h.within, fun a ha => ?_⟩
    rw [memReadOut_congr hout]
    exact h.kept a (hoff ▸ ha)
  · have hlt := u.outCapacity.isLt
    have hoff := putOut_offset (v := v) (s := u) (by omega)
    have hforward := h.forward
    refine ⟨h.capacity, by omega, by rw [hoff, ← h.capacity]; exact hr, fun a ha => ?_⟩
    rw [memReadOut_putOut_ne (by omega)]
    exact h.kept a (by omega)

/-- Only the header's words and CTRL's are rows that start OUT again. -/
theorem decodeFit_not_restarts {f : Format} {w : Nat} {i : Instr} (h : decodeFit f w = some i) (hz : f ≠ .zhdr16)
    (hc : f ≠ .ctrl32) : i.restarts = false := by
  cases f with
  | zhdr16 => exact absurd rfl hz
  | ctrl32 => exact absurd rfl hc
  | bhdr3 =>
    cases h
    simp only [decodeBhdr]
    split <;> rfl
  | stored32 | dynhdr14 | prelen3 | trailer32 => cases h; rfl
  | clsym5 =>
    simp only [decodeFit, decodeClsym] at h
    split at h
    · cases h; rfl
    · split at h <;> cases h <;> rfl
  | litlen9 =>
    simp only [decodeFit, decodeLitlen, lenInstr] at h
    split at h
    · cases h; rfl
    · split at h
      · cases h; rfl
      · split at h
        · split at h <;> cases h <;> rfl
        · split at h
          · cases h; rfl
          · split at h <;> cases h
            rfl
  | dist5 =>
    simp only [decodeFit, decodeDist] at h
    split at h <;> cases h <;> rfl
  | fixlit7 | fixlit9 | fixdist5 =>
    simp only [decodeFit, decodeFix] at h
    split at h <;> cases h
    rfl
  | fixlit8 =>
    simp only [decodeFit, decodeFix] at h
    split at h
    · cases h; rfl
    · split at h <;> cases h
      rfl

/-- In a stream no row starts OUT again. -/
theorem nextInstr_not_restarts {s : State} {i : Instr} (hs : s.inStream = true) (hi : nextInstr s = .instr i) :
    i.restarts = false := by
  have field {f : Format} (h : peekField f s = .instr i) (hz : f ≠ .zhdr16) (hc : f ≠ .ctrl32) :
      i.restarts = false :=
    have ⟨_, hw⟩ := peekField_instr h
    decodeFit_not_restarts hw hz hc
  have code (T : TreeId) : (codeInstr T s).restarts = false := by
    obtain h | ⟨L, f, c, hf, hc⟩ := codeInstr_cases T s
    · rw [h]; rfl
    · have hne : f ≠ .zhdr16 ∧ f ≠ .ctrl32 := by
        unfold fixFormat at hf
        split at hf <;> cases hf <;> decide
      exact decodeFit_not_restarts hc hne.1 hne.2
  have block (h : nextInBlock s = .instr i) : i.restarts = false := by
    unfold nextInBlock at h
    split at h
    · exact field h nofun nofun
    · exact field h nofun nofun
    · cases h; exact code _
    · exact decodeFit_not_restarts (fetched_instr h) nofun nofun
    · cases h; rfl
    · cases h; exact code _
    · exact decodeFit_not_restarts (fetched_instr h) nofun nofun
    · cases h; exact code _
    · exact decodeFit_not_restarts (fetched_instr h) nofun nofun
    · cases h; rfl
  unfold nextInstr at hi
  cases hq : s.seqState with
  | idle | header | done | error => simp [State.inStream, hq] at hs
  | expectBlockHeader =>
    rw [hq] at hi
    exact field hi nofun nofun
  | storedBlock =>
    rw [hq] at hi
    obtain ⟨len, nlen, rfl⟩ := peekStored_instr hi
    rfl
  | trailer =>
    rw [hq] at hi
    obtain ⟨hiHalf, loHalf, rfl⟩ := peekTrailer_instr hi
    rfl
  | fixedHuffmanBlock | dynamicHuffmanBlock =>
    rw [hq] at hi
    exact block hi

/-- Settles O16: the rows of a stream write forward (`engineStep_agree`, from a state and itself). -/
theorem outputWrittenForward : Obligations.OutputWrittenForward := by
  intro s t h hs hin ht hne
  rw [step_of_no_inputs hin] at ht
  have hstart : WrittenForward s s := ⟨rfl, Nat.le_refl _, h.room hs, fun _ _ => rfl⟩
  have hrow := engineStep_agree (coherent_writtenForward s)
    (fun i hi hr => absurd hr (by simp [nextInstr_not_restarts hs hi])) (alike_kept hstart)
  obtain hw | ⟨e, u, -, rfl⟩ := hrow.kept ht
  · exact ⟨hw.forward, hw.within, hw.kept⟩
  · exact absurd rfl hne

end Sys2Proof.Machine
end

section
/-! The fetch: what the sequencer takes from the stream as its next row (20_memory.md R73, R75). -/

namespace Sys2Proof.Machine

section Fetch
variable {s : State}

/-- A raw field is the bits that stand next (40_bit_stream_reader.md R135), or OutOfData. -/
theorem peekField_eq (h : ReaderOk s) {f : Format} (hf : f.width ≤ 25) :
    peekField f s = if s.pos + f.width ≤ 8 * s.byteStreamSize.toNat then fetched f (fieldAt s s.pos f.width)
      else .raise .outOfData := by
  unfold peekField
  split
  · obtain ⟨u, hu, -⟩ := getValue_consumed h hf ‹_›
    rw [hu]; rfl
  · rw [getValue_short h.inv (by omega) ‹_›]; rfl

/-- LEN and NLEN are the 32 bits after the PAD (42_deflate_framing.md R176), or OutOfData. -/
theorem peekStored_eq (h : ReaderOk s) :
    peekStored s = if alignUp s.pos + 32 ≤ 8 * s.byteStreamSize.toNat
      then fetched .stored32 (fieldAt s (alignUp s.pos) 32) else .raise .outOfData := by
  obtain ⟨hflush, hpos, -, -⟩ := flush_spec h
  have hsize := hflush.streamSize
  have hbits := hflush.same.fieldAt
  unfold peekStored
  generalize brFlush s = s1 at hflush hpos hsize hbits
  by_cases hlen : Available 16 s1
  · obtain ⟨s2, hlen2, hc⟩ := getValue_consumed hflush.ok (by decide) hlen
    rw [hlen2, Res.bind_ok]
    by_cases hnlen : Available 16 s2
    · obtain ⟨s3, hnlen3, -⟩ := getValue_consumed hc.ok (by decide) hnlen
      have hword : fieldAt s (alignUp s.pos) 32
          = fieldAt s (alignUp s.pos) 16 + 65536 * fieldAt s (alignUp s.pos + 16) 16 := fieldAt_add s _ 16 16
      rw [hnlen3, if_pos (by simp only [Available, hc.pos, hc.streamSize, hpos, hsize] at hnlen; omega), hword]
      simp only [Res.bind_ok, peek, hc.same.fieldAt, hbits, hc.pos, hpos]
    · rw [getValue_short hc.ok.inv (by decide) hnlen,
        if_neg (by simp only [Available, hc.pos, hc.streamSize, hpos, hsize] at hnlen; omega)]
      rfl
  · rw [getValue_short hflush.ok.inv (by decide) hlen,
      if_neg (by simp only [Available, hpos, hsize] at hlen; omega)]
    rfl

/-- The number of `k` bytes of IN from `a` on below the digits of `acc`, the first byte the most significant
(20_memory.md R75). -/
def bytesBelow (s : State) (acc a : Nat) : Nat → Nat
  | 0 => acc
  | k + 1 => bytesBelow s (256 * acc + (memReadIn a s).toNat) (a + 1) k

theorem bytesBelow_congr {t : State} (h : ∀ a, memReadIn a t = memReadIn a s) (acc a k : Nat) :
    bytesBelow t acc a k = bytesBelow s acc a k := by
  induction k generalizing acc a with
  | zero => rfl
  | succ k ih => simp only [bytesBelow, ih, h]

theorem bigEndian_spec (k acc : Nat) (h : ReaderOk s) (h0 : s.bitBufferSize.toNat = 0) (hb : Available (8 * k) s) :
    ∃ u, bigEndian k acc s = .ok (bytesBelow s acc s.byteStreamOffset.toNat k) u := by
  induction k generalizing acc s with
  | zero => exact ⟨s, rfl⟩
  | succ k ih =>
    simp only [Available] at hb
    obtain ⟨u, hu, hc, hu0, hoff⟩ := readByte_spec h h0 (by simp only [Available]; omega)
    obtain ⟨v, hv⟩ := ih (256 * acc + (memReadIn s.byteStreamOffset.toNat s).toNat) hc.ok hu0
      (by simp only [Available, hc.pos, hc.streamSize]; omega)
    refine ⟨v, ?_⟩
    rw [bigEndian, hu, Res.bind_ok, hv, hoff, bytesBelow_congr (memReadIn_congr hc.same.inMem hc.same.inSize)]
    rfl

/-- The trailer is the four bytes after the PAD, the first the most significant (44_decompress_top.md R224), or
OutOfData. -/
theorem peekTrailer_eq (h : ReaderOk s) :
    peekTrailer s = if alignUp s.pos + 32 ≤ 8 * s.byteStreamSize.toNat
      then fetched .trailer32 (bytesBelow s 0 (alignUp s.pos / 8) 4) else .raise .outOfData := by
  obtain ⟨hflush, hpos, h0, halign⟩ := flush_spec h
  have hsize := hflush.streamSize
  have hread := memReadIn_congr hflush.same.inMem hflush.same.inSize
  unfold peekTrailer
  generalize brFlush s = s1 at hflush hpos h0 halign hsize hread
  have hbytes : alignUp s.pos = 8 * s1.byteStreamOffset.toNat := by rw [← hpos, halign]
  have hcursor := hflush.ok.inv.cursor
  by_cases hb : alignUp s.pos + 32 ≤ 8 * s.byteStreamSize.toNat
  · obtain ⟨u, hu⟩ := bigEndian_spec 4 0 hflush.ok h0 (by simp only [Available, hpos, hsize]; exact hb)
    rw [if_pos hb, if_neg (by simp only [brRemainingBytes, bytesLeft, h0, hsize]; omega), hu, bytesBelow_congr hread,
      hbytes, Nat.mul_div_cancel_left _ (by decide)]
    rfl
  · rw [if_neg hb, if_pos (by simp only [brRemainingBytes, bytesLeft, h0, hsize]; omega)]

theorem nextInstr_inBlock (h : s.inHuffmanBlock = true) : nextInstr s = nextInBlock s := by
  simp only [State.inHuffmanBlock, Bool.or_eq_true, beq_iff_eq] at h
  rcases h with h | h <;> simp only [nextInstr, h]

end Fetch

/-- Settles O7: a clause per place of the sequencer; what is read of the stream there is `peekField_eq`, `peekStored_eq`
and `peekTrailer_eq`. -/
theorem fetchReadsTheStream : Obligations.FetchReadsTheStream := by
  intro s h
  refine ⟨fun hq => ?_, fun hq => ?_, fun hq => ?_, fun hb => ?_⟩
  · simp only [nextInstr, hq]
    exact peekField_eq h (f := .bhdr3) (by decide)
  · simp only [nextInstr, hq]
    exact peekStored_eq h
  · simp only [nextInstr, hq, peekTrailer_eq h, bytesBelow, Nat.add_assoc, Nat.reduceAdd]
    congr 2
    omega
  · rw [nextInstr_inBlock hb]
    refine ⟨fun hp => ?_, fun i hp => ?_, fun hp => ?_, fun hp => ?_, fun hp => ?_, fun hp => ?_, fun hp => ?_,
      fun hp => ?_, fun hp => ?_, fun hp => ?_⟩ <;> simp only [nextInBlock, hp]
    · exact peekField_eq h (f := .dynhdr14) (by decide)
    · exact peekField_eq h (f := .prelen3) (by decide)
    · rfl
    · rfl

end Sys2Proof.Machine
end

section
/-! The encoding of 30_encoding.md: decoding and encoding are inverse, and the opcode table's masks and matches say the
same as the decoder. -/

namespace Sys2Proof.Machine

/-! ## From an instruction to its word and back -/

/-- Decoding the word of a well-formed instruction gives it back: the laws of the rows with operands, and by evaluation
the rows without. -/
theorem roundTrip (i : Instr) : Laws.RoundTrip.Statement i := by
  cases i with
  | zhdr cinfo fcheck flevel => exact Laws.RoundTrip.zhdr cinfo fcheck flevel
  | zhdrBadwindow cinfo fcheck fdict flevel => exact Laws.RoundTrip.zhdrBadwindow cinfo fcheck fdict flevel
  | zhdrFdict cinfo fcheck flevel => exact Laws.RoundTrip.zhdrFdict cinfo fcheck flevel
  | zhdrBadcm cm cinfo fcheck fdict flevel => exact Laws.RoundTrip.zhdrBadcm cm cinfo fcheck fdict flevel
  | bhdrStored last => exact Laws.RoundTrip.bhdrStored last
  | bhdrFixed last => exact Laws.RoundTrip.bhdrFixed last
  | bhdrDynamic last => exact Laws.RoundTrip.bhdrDynamic last
  | bhdrReserved last => exact Laws.RoundTrip.bhdrReserved last
  | stored len nlen => exact Laws.RoundTrip.stored len nlen
  | dynhdr hlit hdist hclen => exact Laws.RoundTrip.dynhdr hlit hdist hclen
  | prelen length => exact Laws.RoundTrip.prelen length
  | clLen length => exact Laws.RoundTrip.clLen length
  | lit byte => exact Laws.RoundTrip.lit byte
  | trailer hi lo => exact Laws.RoundTrip.trailer hi lo
  | decompress ignored => exact Laws.RoundTrip.decompress ignored
  | fixlit7 code => exact Laws.RoundTrip.fixlit7 code
  | fixlit8a code => exact Laws.RoundTrip.fixlit8a code
  | fixlit8b code => exact Laws.RoundTrip.fixlit8b code
  | fixlit9 code => exact Laws.RoundTrip.fixlit9 code
  | fixdist5 code => exact Laws.RoundTrip.fixdist5 code
  | brInit | brRead | brGetValue | brFlush | brReadByte | brRemainingBytes | htBuild | htDecodeSymbol | dyntrees
  | matchCopy | lzCopy | adlerInit | adlerUpdate | adlerFinal => exact Laws.roundTrip_of_none rfl
  | _ => exact Laws.roundTrip_of rfl fun _ => rfl

/-- Only unit operations have no word (30_encoding.md R124). -/
theorem isUnit_of_encode_none {i : Instr} (h : encode i = none) : i.isUnit = true := by
  cases i with
  | brInit | brRead | brGetValue | brFlush | brReadByte | brRemainingBytes | htBuild | htDecodeSymbol | dyntrees
  | matchCopy | lzCopy | adlerInit | adlerUpdate | adlerFinal => rfl
  | _ => cases h

/-- Settles O1: the round trip of each row (`roundTrip`). -/
theorem decodeOfEncode : Obligations.DecodeOfEncode :=
  fun i hw => ⟨roundTrip i hw, isUnit_of_encode_none⟩

/-! ## From a word to its instruction and back -/

/-- The value of a field of a word. -/
@[simp] theorem bits_toNat (w lo n : Nat) : (bits w lo n).toNat = w / 2 ^ lo % 2 ^ n := BitVec.toNat_ofNat ..

/-- A field that is a value. -/
theorem bits_eq_iff {w lo n : Nat} {v : BitVec n} : bits w lo n = v ↔ w / 2 ^ lo % 2 ^ n = v.toNat := by
  rw [← BitVec.toNat_inj, bits_toNat]

/-- The instruction is well formed and has this word in this format. -/
def IsWordOf (i : Instr) (f : Format) (w : Nat) : Prop := encode i = some (f, w) ∧ i.wf = true

theorem isWordOf_of_eq {i : Instr} {f : Format} {v w : Nat} (he : encode i = some (f, v)) (hwf : i.wf = true)
    (hv : v = w) : IsWordOf i f w := ⟨hv ▸ he, hwf⟩

/-- A word that fits and decodes. -/
theorem decode_eq_ok_iff {f : Format} {w : Nat} {i : Instr} :
    decode f w = .ok i ↔ w < 2 ^ f.width ∧ decodeFit f w = some i := by
  refine ⟨fun h => ⟨?_, decode_ok h⟩, fun ⟨hw, h⟩ => Laws.decode_of_fit hw h⟩
  by_contra hw
  rw [decode, if_pos (by omega)] at h
  cases h

theorem decodeZhdr_isWordOf {w : Nat} (hw : w < 2 ^ 16) : IsWordOf (decodeZhdr w) .zhdr16 w := by
  simp only [decodeZhdr, ne_eq, bits_eq_iff, BitVec.reduceToNat]
  split
  case isTrue hcm =>
    exact isWordOf_of_eq rfl (by simpa [Instr.wf, bits_eq_iff] using hcm) (by simp only [bits_toNat]; omega)
  case isFalse => split_ifs <;> exact isWordOf_of_eq rfl rfl (by simp only [bits_toNat]; omega)

theorem decodeBhdr_isWordOf {w : Nat} (hw : w < 2 ^ 3) : IsWordOf (decodeBhdr w) .bhdr3 w := by
  have h : ∀ w < 8, encode (decodeBhdr w) = some (.bhdr3, w) ∧ (decodeBhdr w).wf = true := by decide
  exact h w hw

theorem decodeClsym_isWordOf {w : Nat} {i : Instr} (h : decodeClsym w = some i) : IsWordOf i .clsym5 w := by
  unfold decodeClsym at h
  split at h
  case isTrue hlen =>
    cases h
    exact isWordOf_of_eq rfl rfl (by rw [BitVec.toNat_ofNat]; omega)
  case isFalse => split at h <;> cases h <;> exact ⟨rfl, rfl⟩

theorem lenInstr_isWordOf {k : Nat} {i : Instr} (h : lenInstr k = some i) : IsWordOf i .litlen9 (257 + k) := by
  unfold lenInstr at h
  split at h <;> cases h <;> exact ⟨rfl, rfl⟩

theorem decodeDist_isWordOf {w : Nat} {i : Instr} (h : decodeDist w = some i) : IsWordOf i .dist5 w := by
  unfold decodeDist at h
  split at h <;> cases h <;> exact ⟨rfl, rfl⟩

theorem decodeLitlen_isWordOf {w : Nat} {i : Instr} (h : decodeLitlen w = some i) : IsWordOf i .litlen9 w := by
  unfold decodeLitlen at h
  split_ifs at h with hlit heob hlen h286 h287
  · cases h
    exact isWordOf_of_eq rfl rfl (by rw [BitVec.toNat_ofNat]; omega)
  · cases h; subst heob; exact ⟨rfl, rfl⟩
  · have hk := lenInstr_isWordOf h
    rwa [show 257 + (w - 257) = w by omega] at hk
  · cases h; subst h286; exact ⟨rfl, rfl⟩
  · cases h; subst h287; exact ⟨rfl, rfl⟩

/-- A fixed-code row: the code is its word, and is in the row's range (30_encoding.md R118). -/
theorem decodeFix_isWordOf {f : Format} {c : Nat} {i : Instr} (hc : c < 2 ^ f.width) (h : decodeFix f c = some i) :
    IsWordOf i f c := by
  cases f with
  | fixlit7 | fixlit8 | fixlit9 | fixdist5 =>
    simp only [Format.width] at hc
    simp only [decodeFix] at h
    split_ifs at h <;> cases h <;>
    exact isWordOf_of_eq rfl (by simp only [Instr.wf, BitVec.toNat_ofNat, Bool.and_eq_true, decide_eq_true_eq]; omega)
      (by rw [BitVec.toNat_ofNat]; omega)
  | _ => cases h

/-- Settles O2: the decoder's fields put together again are the word, format by format. -/
theorem encodeOfDecode : Obligations.EncodeOfDecode := by
  intro f w i h
  obtain ⟨hw, h⟩ := decode_eq_ok_iff.1 h
  show IsWordOf i f w
  cases f with
  | zhdr16 => cases h; exact decodeZhdr_isWordOf hw
  | bhdr3 => cases h; exact decodeBhdr_isWordOf hw
  | clsym5 => exact decodeClsym_isWordOf h
  | litlen9 => exact decodeLitlen_isWordOf h
  | dist5 => exact decodeDist_isWordOf h
  | stored32 | dynhdr14 | prelen3 | trailer32 =>
    simp only [Format.width] at hw
    cases h
    exact isWordOf_of_eq rfl rfl (by simp only [bits_toNat]; omega)
  | ctrl32 =>
    simp only [Format.width] at hw
    simp only [decodeFit, bits_eq_iff, BitVec.reduceToNat] at h
    split_ifs at h
    cases h
    exact isWordOf_of_eq rfl rfl (by simp only [bits_toNat]; omega)
  | fixlit7 | fixlit8 | fixlit9 | fixdist5 => exact decodeFix_isWordOf hw h

end Sys2Proof.Machine
end

section
/-! The fixed-code rows (30_encoding.md R118) and the bits-to-symbol stage (R106): the row of a code has the effect of
HT.DECODE_SYMBOL on the constant tree. -/

namespace Sys2Proof.Machine

/-! ## The codes of the constant trees -/

/-- A range of symbols, by index. -/
theorem symRange_getElem? (n : Nat) : ∀ first k, (symRange first n)[k]? =
    if k < n then some (BitVec.ofNat 9 (first + k)) else none := by
  induction n with
  | zero => simp [symRange]
  | succ n ih =>
    intro first k
    cases k with
    | zero => simp [symRange]
    | succ k => simp [symRange, ih, Nat.add_assoc, Nat.add_comm 1]

@[simp] theorem symRange_length (n : Nat) : ∀ first, (symRange first n).length = n := by
  induction n with
  | zero => simp [symRange]
  | succ n ih => simp [symRange, ih]

/-- FIX_LIT_TREE has codes of 7, 8 and 9 bits only (41_huffman_tree_decoder.md R160). -/
theorem fixLitTree_symsAt_nil {L : Nat} (h7 : L ≠ 7) (h8 : L ≠ 8) (h9 : L ≠ 9) : fixLitTree.symsAt L = [] := by
  by_cases hL : L < 16
  · have h : ∀ L < 16, L ≠ 7 → L ≠ 8 → L ≠ 9 → fixLitTree.symsAt L = [] := by decide
    exact h L hL h7 h8 h9
  · exact symsAt_big _ (by omega)

/-- FIX_DIST_TREE has codes of 5 bits only (41_huffman_tree_decoder.md R160). -/
theorem fixDistTree_symsAt_nil {L : Nat} (h5 : L ≠ 5) : fixDistTree.symsAt L = [] := by
  by_cases hL : L < 16
  · have h : ∀ L < 16, L ≠ 5 → fixDistTree.symsAt L = [] := by decide
    exact h L hL h5
  · exact symsAt_big _ (by omega)

/-- A valid pair has a code from the first on, and a symbol at its index. -/
theorem lookup_eq_some {t : TreeStore} {L c : Nat} {sym : BitVec 9} :
    t.lookup L c = some sym ↔ t.firstCodeAt L ≤ c ∧ (t.symsAt L)[c - t.firstCodeAt L]? = some sym := by
  simp [TreeStore.lookup]

/-- The fixed-code row `i` has the word `c` in the format `f` of the tree's codes of length `L`, and as its effect that
of consuming the code's bits and returning `sym`. -/
structure FixedRow (t : TreeId) (L c : Nat) (sym : BitVec 9) (f : Format) (i : Instr) : Prop where
  format : fixFormat t L = some f
  width : f.width = L
  decodes : decode f c = .ok i
  effect : ∀ s, exec i s = fixedCode L sym.toNat s

theorem FixedRow.of_effect {t : TreeId} {L c symbol : Nat} {sym : BitVec 9} {f : Format} {i : Instr}
    (hf : fixFormat t L = some f) (hw : f.width = L) (hc : c < 2 ^ L) (hi : decodeFit f c = some i)
    (he : ∀ s, exec i s = fixedCode L symbol s) (hsym : symbol = sym.toNat) : FixedRow t L c sym f i :=
  ⟨hf, hw, decode_eq_ok_iff.2 ⟨hw ▸ hc, hi⟩, hsym ▸ he⟩

/-- Every code of FIX_LIT_TREE is the word of a row (30_encoding.md R118). -/
theorem fixLitTree_row {L c : Nat} {sym : BitVec 9} (h : fixLitTree.lookup L c = some sym) :
    ∃ f i, FixedRow .fixLit L c sym f i := by
  obtain ⟨hfirst, hsym⟩ := lookup_eq_some.1 h
  by_cases h7 : L = 7
  · subst h7
    rw [show fixLitTree.symsAt 7 = symRange 256 24 from rfl, show fixLitTree.firstCodeAt 7 = 0 from rfl,
      symRange_getElem?] at hsym
    split_ifs at hsym with hc
    obtain rfl := Option.some.inj hsym
    exact ⟨_, .fixlit7 (BitVec.ofNat 7 c), .of_effect rfl rfl (by omega)
      (by rw [decodeFit, decodeFix, if_pos (by omega)])
      (fun _ => rfl) (by simp only [BitVec.toNat_ofNat]; omega)⟩
  by_cases h8 : L = 8
  · subst h8
    rw [show fixLitTree.firstCodeAt 8 = 48 from rfl] at hfirst hsym
    rw [show fixLitTree.symsAt 8 = symRange 0 144 ++ symRange 280 8 from rfl, List.getElem?_append, symRange_length,
      symRange_getElem?, symRange_getElem?] at hsym
    split_ifs at hsym with ha hb
    · obtain rfl := Option.some.inj hsym
      exact ⟨_, .fixlit8a (BitVec.ofNat 8 c), .of_effect rfl rfl (by omega)
        (by rw [decodeFit, decodeFix, if_pos (by omega)])
        (fun _ => rfl) (by simp only [BitVec.toNat_ofNat]; omega)⟩
    · obtain rfl := Option.some.inj hsym
      exact ⟨_, .fixlit8b (BitVec.ofNat 8 c), .of_effect rfl rfl (by omega)
        (by rw [decodeFit, decodeFix, if_neg (by omega), if_pos (by omega)])
        (fun _ => rfl) (by simp only [BitVec.toNat_ofNat]; omega)⟩
  by_cases h9 : L = 9
  · subst h9
    rw [show fixLitTree.firstCodeAt 9 = 400 from rfl] at hfirst hsym
    rw [show fixLitTree.symsAt 9 = symRange 144 112 from rfl, symRange_getElem?] at hsym
    split_ifs at hsym with hc
    obtain rfl := Option.some.inj hsym
    exact ⟨_, .fixlit9 (BitVec.ofNat 9 c), .of_effect rfl rfl (by omega)
      (by rw [decodeFit, decodeFix, if_pos hfirst])
      (fun _ => rfl) (by simp only [BitVec.toNat_ofNat]; omega)⟩
  · rw [fixLitTree_symsAt_nil h7 h8 h9] at hsym
    cases hsym

/-- Every code of FIX_DIST_TREE is the word of a row (30_encoding.md R118). -/
theorem fixDistTree_row {L c : Nat} {sym : BitVec 9} (h : fixDistTree.lookup L c = some sym) :
    ∃ f i, FixedRow .fixDist L c sym f i := by
  obtain ⟨-, hsym⟩ := lookup_eq_some.1 h
  by_cases h5 : L = 5
  · subst h5
    rw [show fixDistTree.symsAt 5 = symRange 0 30 from rfl, show fixDistTree.firstCodeAt 5 = 0 from rfl,
      symRange_getElem?] at hsym
    split_ifs at hsym with hc
    obtain rfl := Option.some.inj hsym
    exact ⟨_, .fixdist5 (BitVec.ofNat 5 c), .of_effect rfl rfl (by omega)
      (by rw [decodeFit, decodeFix, if_pos (by omega)])
      (fun _ => rfl) (by simp only [BitVec.toNat_ofNat]; omega)⟩
  · rw [fixDistTree_symsAt_nil h5] at hsym
    cases hsym

/-! ## What a match is -/

/-- A match of the loop, in any state: the pair found is valid, and its bits have been consumed one at a time. -/
theorem matchLoop_ok {t : TreeStore} {fuel L c : Nat} {s u : State} {m : CodeMatch}
    (h : htMatchLoop t fuel L c s = .ok m u) :
    t.lookup m.codeLength m.code = some m.symbol ∧ ∃ k, m.codeLength = L + k ∧ takeBits k s = .ok () u := by
  induction fuel generalizing L c s with
  | zero => cases h
  | succ fuel ih =>
    obtain ⟨b, s1, hb, h⟩ := Res.bind_eq_ok h
    split at h
    · cases h
      exact ⟨‹_›, 1, rfl, by simp only [takeBits, hb, Res.bind_ok]⟩
    · obtain ⟨hl, k, hk, ht⟩ := ih h
      exact ⟨hl, k + 1, by omega, by simp only [takeBits, hb, Res.bind_ok, ht]⟩

theorem htMatch_ok {t : TreeId} {s u : State} {m : CodeMatch} (h : htMatch t s = .ok m u) :
    (s.tree t).lookup m.codeLength m.code = some m.symbol ∧ takeBits m.codeLength s = .ok () u := by
  unfold htMatch at h
  split at h
  · obtain ⟨hl, k, hk, ht⟩ := matchLoop_ok h
    rw [Nat.zero_add] at hk
    exact ⟨hl, hk ▸ ht⟩
  · cases h

/-! ## The row of a code -/

/-- In a dynamic block, and for the pre-code, the row is HT.DECODE_SYMBOL. -/
theorem codeInstr_of_writable {t : TreeId} (ht : t.writable = true) (s : State) : codeInstr t s = .htDecodeSymbol t := by
  have hf (L : Nat) : fixFormat t L = none := by
    cases t with
    | pre | dynLit | dynDist => rfl
    | fixLit | fixDist => cases ht
  unfold codeInstr
  split
  · rw [hf]
  · rfl

/-- Where no code of the tree stands next, the row is HT.DECODE_SYMBOL. -/
theorem codeInstr_of_no_match {t : TreeId} {s : State} (h : ∀ m u, htMatch t s ≠ .ok m u) :
    codeInstr t s = .htDecodeSymbol t := by
  unfold codeInstr
  split
  · exact absurd ‹_› (h _ _)
  · rfl

/-- Where a code of a constant tree stands next, the row is the one whose word the code is. -/
theorem codeInstr_of_match {t : TreeId} {s u : State} {m : CodeMatch} (ht : t = .fixLit ∨ t = .fixDist)
    (h : htMatch t s = .ok m u) : ∃ f, FixedRow t m.codeLength m.code m.symbol f (codeInstr t s) := by
  obtain ⟨hl, -⟩ := htMatch_ok h
  have ⟨f, i, hrow⟩ : ∃ f i, FixedRow t m.codeLength m.code m.symbol f i := by
    obtain rfl | rfl := ht
    · exact fixLitTree_row hl
    · exact fixDistTree_row hl
  have hi : codeInstr t s = i := by simp only [codeInstr, h, hrow.format, hrow.decodes]
  exact ⟨f, hi ▸ hrow⟩

/-- Settles O8: without a match the row is HT.DECODE_SYMBOL itself; a match of a constant tree has consumed the bits that
its row consumes (`htMatch_ok`, `codeInstr_of_match`). -/
theorem codeRowsAgreeWithDecodeSymbol : Obligations.CodeRowsAgreeWithDecodeSymbol := by
  intro t s
  refine ⟨?_, fun m u ht hm => ?_⟩
  · cases hm : htMatch t s with
    | raised e u => rw [codeInstr_of_no_match (by simp [hm])]
    | refused r => rw [codeInstr_of_no_match (by simp [hm])]
    | ok m u =>
      cases t with
      | pre | dynLit | dynDist => rw [codeInstr_of_writable rfl]
      | fixLit | fixDist =>
        obtain ⟨f, hrow⟩ := codeInstr_of_match (by decide) hm
        rw [hrow.effect, fixedCode, (htMatch_ok hm).2]
        show _ = (htMatch _ s).outcomeWith _
        rw [hm]
        rfl
  · obtain ⟨f, hrow⟩ := codeInstr_of_match ht hm
    obtain ⟨henc, hwf⟩ := encodeOfDecode _ _ _ hrow.decodes
    exact ⟨f, henc, hrow.width, hwf⟩

/-! ## The fixed-code rows on their own -/

/-- A fixed-code row with its bits there consumes them and returns its symbol. -/
theorem fixedCode_consumed {n : Nat} {s : State} (h : ReaderOk s) (ha : Available n s) (symbol : Nat) :
    ∃ r, Consumed n s r ∧ fixedCode n symbol s = .next { r with unitResult := symbol } := by
  obtain ⟨r, hr, hc⟩ := takeBits_spec n h ha
  exact ⟨r, hc, by rw [fixedCode, hr]; rfl⟩

/-- Settles O34: each row consumes its code's bits and returns its symbol (`fixedCode_consumed`). -/
theorem fixedCodeRows : Obligations.FixedCodeRows := fun _ h =>
  ⟨fun _ _ ha => fixedCode_consumed h ha _, fun _ _ _ ha => fixedCode_consumed h ha _,
    fun _ _ _ ha => fixedCode_consumed h ha _, fun _ _ ha => fixedCode_consumed h ha _,
    fun _ _ ha => fixedCode_consumed h ha _⟩

end Sys2Proof.Machine
end

section
/-! The opcode table (30_encoding.md R124): the rows' masks and matches as conditions on the word's fields, and what each
row's words decode to. -/

namespace Sys2Proof.Machine

/-! ## Masks -/

/-- A mask with one bit above the others takes that bit of the word besides. -/
theorem and_two_pow_add {k a : Nat} (ha : a < 2 ^ k) (w : Nat) :
    w &&& (2 ^ k + a) = 2 ^ k * (w / 2 ^ k % 2) + (w &&& a) := by
  have hor : 2 ^ k + a = 2 ^ k ||| a := by simpa using Nat.two_pow_add_eq_or_of_lt ha 1
  rw [hor, Nat.and_or_distrib_left, Nat.and_two_pow, Nat.toNat_testBit, Nat.mul_comm,
    Nat.two_pow_add_eq_or_of_lt (Nat.and_lt_two_pow w ha)]

/-- The mask of CM and the top bit of CINFO (30_encoding.md R92). -/
theorem and_0x008f (w : Nat) : w &&& 0x008f = 128 * (w / 128 % 2) + w % 16 := by
  rw [show 0x008f = 2 ^ 7 + (2 ^ 4 - 1) from rfl, and_two_pow_add (by decide), Nat.and_two_pow_sub_one_eq_mod]
  simp only [Nat.reducePow]

/-- The mask of CM, the top bit of CINFO and FDICT (30_encoding.md R92). -/
theorem and_0x208f (w : Nat) : w &&& 0x208f = 8192 * (w / 8192 % 2) + (128 * (w / 128 % 2) + w % 16) := by
  rw [show 0x208f = 2 ^ 13 + 0x008f from rfl, and_two_pow_add (by decide), and_0x008f]
  simp only [Nat.reducePow]

/-! ## The rows of each format -/

/-- The mnemonic of the instruction a word decodes to, if it decodes. -/
def mnemonicOf (f : Format) (w : Nat) : Option String := (decode f w).toOption.map Instr.mnemonic

theorem mnemonicOf_eq_some {f : Format} {w : Nat} {name : String} :
    mnemonicOf f w = some name ↔ ∃ i, decode f w = .ok i ∧ i.mnemonic = name := by
  unfold mnemonicOf
  cases decode f w <;> simp [Except.toOption]

theorem mnemonicOf_of_fit {f : Format} {w : Nat} {i : Instr} (hw : w < 2 ^ f.width) (h : decodeFit f w = some i) :
    mnemonicOf f w = some i.mnemonic := mnemonicOf_eq_some.2 ⟨i, Laws.decode_of_fit hw h, rfl⟩

section Rows
variable {r : OpcodeRow} {w : Nat}

theorem selects_iff : r.selects w = true ↔ w &&& r.mask = r.pattern := by simp [OpcodeRow.selects]

theorem selects_of_applies (h : r.applies w = true) : r.selects w = true := by
  simp only [OpcodeRow.applies, Bool.and_eq_true] at h
  exact h.1

/-- Where the row marked last applies, no other row of its format selects the word. -/
theorem not_selects_of_last_applies (h : r.applies w = true) (hl : r.last = true) {q : OpcodeRow} (hq : q ∈ opcodeRows)
    (hf : q.format = r.format) (hn : q.last = false) : w &&& q.mask ≠ q.pattern := by
  intro hsel
  have hany : opcodeRows.any (fun q => q.format == r.format && !q.last && q.selects w) = true :=
    List.any_eq_true.2 ⟨q, hq, by simp [hf, hn, selects_iff.2 hsel]⟩
  simp [OpcodeRow.applies, hl, hany] at h

/-- A row whose mask is the whole word is selected by its match only, and that decodes to the row. -/
theorem exactRow_decodes (hr : r ∈ opcodeRows) (hm : r.mask = 2 ^ r.format.width - 1) (hw : w < 2 ^ r.format.width)
    (h : r.selects w = true) : mnemonicOf r.format w = some r.mnemonic := by
  have hword : ∀ r ∈ opcodeRows, r.mask = 2 ^ r.format.width - 1 →
      mnemonicOf r.format r.pattern = some r.mnemonic := by decide +kernel
  rw [selects_iff, hm, Nat.and_two_pow_sub_one_eq_mod, Nat.mod_eq_of_lt hw] at h
  rw [h]
  exact hword r hr hm

/-- The rows of at most 5 bits, word by word. -/
theorem narrowRow_decodes (hr : r ∈ opcodeRows) (hn : r.format.width ≤ 5) (hw : w < 2 ^ r.format.width)
    (h : r.selects w = true) : mnemonicOf r.format w = some r.mnemonic := by
  have hword : ∀ r ∈ opcodeRows, r.format.width ≤ 5 → ∀ w < 2 ^ r.format.width, r.selects w = true →
      mnemonicOf r.format w = some r.mnemonic := by decide +kernel
  exact hword r hr hn w hw h

/-- The tests of a header's word, in the order of 42_deflate_framing.md R170. -/
theorem mnemonicOf_zhdr16 (hw : w < 2 ^ 16) : mnemonicOf .zhdr16 w = some (
    if w % 16 ≠ 8 then "ZHDR.BADCM" else if w / 128 % 2 = 1 then "ZHDR.BADWINDOW"
    else if w / 8192 % 2 = 1 then "ZHDR.FDICT" else "ZHDR") := by
  rw [mnemonicOf_of_fit (f := .zhdr16) hw rfl]
  simp only [decodeZhdr, ne_eq, bits_eq_iff, BitVec.reduceToNat, Nat.reducePow, Nat.div_one]
  split_ifs <;> rfl

/-- The rows of the header. -/
theorem zhdrRow_decodes (hr : r ∈ opcodeRows) (hf : r.format = .zhdr16) (hw : w < 2 ^ 16) (h : r.applies w = true) :
    mnemonicOf .zhdr16 w = some r.mnemonic := by
  have hrows : ∀ r ∈ opcodeRows, r.format = .zhdr16 → r ∈ opcodeRowsFixed.take 4 := by decide +kernel
  have hsel := selects_iff.1 (selects_of_applies h)
  rw [mnemonicOf_zhdr16 hw]
  replace hr := hrows r hr hf
  simp only [opcodeRowsFixed, List.take, List.mem_cons, List.not_mem_nil, or_false] at hr
  obtain rfl | rfl | rfl | rfl := hr
  · simp only [and_0x208f] at hsel
    rw [if_neg (by omega), if_neg (by omega), if_neg (by omega)]
  · simp only [and_0x008f] at hsel
    rw [if_neg (by omega), if_pos (by omega)]
  · simp only [and_0x208f] at hsel
    rw [if_neg (by omega), if_neg (by omega), if_pos (by omega)]
  · have hgood := not_selects_of_last_applies h rfl (q := ⟨"ZHDR", .zhdr16, 0x208f, 0x0008, false⟩) (by decide) rfl rfl
    have hwin := not_selects_of_last_applies h rfl (q := ⟨"ZHDR.BADWINDOW", .zhdr16, 0x008f, 0x0088, false⟩)
      (by decide) rfl rfl
    have hdict := not_selects_of_last_applies h rfl (q := ⟨"ZHDR.FDICT", .zhdr16, 0x208f, 0x2008, false⟩)
      (by decide) rfl rfl
    simp only [and_0x208f, and_0x008f] at hgood hwin hdict
    rw [if_pos (by omega)]

/-- The rows of LITLEN9: LIT, and rows of one word each. -/
theorem litlenRow_decodes (hr : r ∈ opcodeRows) (hf : r.format = .litlen9) (hw : w < 2 ^ r.format.width)
    (h : r.selects w = true) : mnemonicOf r.format w = some r.mnemonic := by
  have hrows : ∀ r ∈ opcodeRows, r.format = .litlen9 →
      r = ⟨"LIT", .litlen9, 0x100, 0x000, false⟩ ∨ r.mask = 2 ^ r.format.width - 1 := by decide +kernel
  obtain rfl | hm := hrows r hr hf
  · rw [selects_iff, show (0x100 : Nat) = 2 ^ 8 + 0 from rfl, and_two_pow_add (by decide)] at h
    simp only [Nat.and_zero, Format.width] at h hw
    exact mnemonicOf_of_fit (f := .litlen9) hw (by rw [decodeFit, decodeLitlen, if_pos (by omega)])
  · exact exactRow_decodes hr hm hw h

/-- A word that a row applies to decodes to the row's instruction: format by format. -/
theorem row_decodes (hr : r ∈ opcodeRows) (hw : w < 2 ^ r.format.width) (h : r.applies w = true) :
    mnemonicOf r.format w = some r.mnemonic := by
  have hsel := selects_of_applies h
  have hstored : ∀ r ∈ opcodeRows, r.format = .stored32 → r.mnemonic = "STORED" := by decide +kernel
  have hdynhdr : ∀ r ∈ opcodeRows, r.format = .dynhdr14 → r.mnemonic = "DYNHDR" := by decide +kernel
  have htrailer : ∀ r ∈ opcodeRows, r.format = .trailer32 → r.mnemonic = "TRAILER" := by decide +kernel
  have hctrl : ∀ r ∈ opcodeRows, r.format = .ctrl32 → r.mnemonic = "DECOMPRESS" ∧ r.mask = 1 ∧ r.pattern = 1 := by
    decide +kernel
  have hfix : ∀ r ∈ opcodeRows, r.format ∉ [.fixlit7, .fixlit8, .fixlit9, .fixdist5] := by decide +kernel
  have hnarrow : r.format.width ≤ 5 → mnemonicOf r.format w = some r.mnemonic :=
    fun hn => narrowRow_decodes hr hn hw hsel
  cases hf : r.format <;> rw [hf] at hw hnarrow
  case zhdr16 => exact zhdrRow_decodes hr hf hw h
  case litlen9 => exact hf ▸ litlenRow_decodes hr hf (hf ▸ hw) hsel
  case bhdr3 | prelen3 | clsym5 | dist5 => exact hnarrow (by decide)
  case stored32 => rw [hstored r hr hf, mnemonicOf_of_fit hw rfl]; rfl
  case dynhdr14 => rw [hdynhdr r hr hf, mnemonicOf_of_fit hw rfl]; rfl
  case trailer32 => rw [htrailer r hr hf, mnemonicOf_of_fit hw rfl]; rfl
  case ctrl32 =>
    obtain ⟨hname, hm, hp⟩ := hctrl r hr hf
    rw [selects_iff, hm, hp, Nat.and_one_is_mod] at hsel
    rw [hname, mnemonicOf_of_fit hw (if_pos (bits_eq_iff.2 (by simpa using hsel)))]
    rfl
  case fixlit7 | fixlit8 | fixlit9 | fixdist5 => exact absurd (hfix r hr) (by simp [hf])

end Rows

/-- The rows are told apart by their mnemonics. -/
theorem opcodeRows_mnemonic_nodup : (opcodeRows.map OpcodeRow.mnemonic).Nodup := by decide +kernel

/-- Settles O3: each row by its format (`row_decodes`); two rows that apply to one word name the same instruction, and no
two rows have one mnemonic. -/
theorem opcodeRowsDecode : Obligations.OpcodeRowsDecode := by
  refine ⟨fun r hr w hw h => mnemonicOf_eq_some.1 (row_decodes hr hw h), fun r hr q hq w hw hf hra hqa => ?_⟩
  have hname : some r.mnemonic = some q.mnemonic := by
    rw [← row_decodes hr hw hra, hf, row_decodes hq (hf ▸ hw) hqa]
  exact List.inj_on_of_nodup_map opcodeRows_mnemonic_nodup hr hq (Option.some.inj hname)

end Sys2Proof.Machine
end

section
/-! The tables of operands tile their ranges (30_encoding.md R104, R112, R114), words written out from the layouts decode
to their elements, and what the sequencer adds after a row (R106). -/

namespace Sys2Proof.Machine

/-! ## Tables whose rows follow one another -/

section Tiles
variable {base size : Nat → Nat} {n : Nat}

/-- Row `j` of a table of bases and sizes reaches the value `v`. -/
def RowReaches (base size : Nat → Nat) (j v : Nat) : Prop := base j ≤ v ∧ v < base j + size j

/-- Of rows that follow one another without a gap one reaches each value of their range. -/
theorem exists_rowReaches (h : ∀ j < n, base (j + 1) = base j + size j) {v : Nat} (h0 : base 0 ≤ v)
    (hv : v < base n + size n) : ∃ j ≤ n, RowReaches base size j v := by
  induction n with
  | zero => exact ⟨0, le_rfl, h0, hv⟩
  | succ n ih =>
    by_cases hlast : base (n + 1) ≤ v
    · exact ⟨n + 1, le_rfl, hlast, hv⟩
    · have hstep := h n (by omega)
      obtain ⟨j, hj, hr⟩ := ih (fun j hj => h j (by omega)) (by omega)
      exact ⟨j, by omega, hr⟩

/-- A row ends where a later row starts, or before. -/
theorem base_add_size_le (h : ∀ j < n, base (j + 1) = base j + size j) {j k : Nat} (hjk : j < k) (hk : k ≤ n) :
    base j + size j ≤ base k := by
  induction k, hjk using Nat.le_induction with
  | base => exact (h j (by omega)).ge
  | succ k hjk ih =>
    have hstep := h k (by omega)
    have := ih (by omega)
    omega

/-- No two of the rows reach one value. -/
theorem rowReaches_unique (h : ∀ j < n, base (j + 1) = base j + size j) {j k v : Nat} (hj : j ≤ n) (hk : k ≤ n)
    (hjv : RowReaches base size j v) (hkv : RowReaches base size k v) : j = k := by
  obtain ⟨hj1, hj2⟩ := hjv
  obtain ⟨hk1, hk2⟩ := hkv
  rcases Nat.lt_trichotomy j k with hlt | heq | hgt
  · have := base_add_size_le h hlt hk
    omega
  · exact heq
  · have := base_add_size_le h hgt hj
    omega

end Tiles

/-- The rows LEN.0 to LEN.27 follow one another (30_encoding.md R112). -/
theorem lenRows_follow : ∀ k < 27, lenBase (k + 1) = lenBase k + 2 ^ lenExtra k := by decide

/-- The rows of the distance table follow one another (30_encoding.md R114). -/
theorem distRows_follow : ∀ j < 29, distBase (j + 1) = distBase j + 2 ^ distExtra j := by decide

/-- No two places of CL_ORDER have one value (30_encoding.md R104). -/
theorem clOrderAt_injective : ∀ i ≤ 18, ∀ j ≤ 18, clOrderAt i = clOrderAt j → i = j := by decide

/-- Settles O51: the rows of both tables but LEN.28 follow one another (`exists_rowReaches`, `rowReaches_unique`); LEN.28
reaches 258 alone. CL_ORDER is checked entry by entry. -/
theorem operandTablesTile : Obligations.OperandTablesTile := by
  refine ⟨fun n h3 h258 => ?_, fun d h1 hd => ?_, distRows_follow, by decide,
    fun i j hi hj => clOrderAt_injective i hi j hj⟩
  · obtain ⟨k, hk, hlo, hhi⟩ := exists_rowReaches lenRows_follow (v := n) h3 (Nat.lt_succ_of_le h258)
    refine ⟨k, by omega, hlo, hhi, fun k' hk' hlo' hhi' => ?_⟩
    by_cases hlast : k' = 28
    · subst hlast
      exact .inr (le_antisymm h258 hlo')
    · exact .inl (rowReaches_unique lenRows_follow (by omega) hk ⟨hlo', hhi'⟩ ⟨hlo, hhi⟩)
  · obtain ⟨j, hj, hlo, hhi⟩ := exists_rowReaches distRows_follow (v := d) h1 (Nat.lt_succ_of_le hd)
    exact ⟨j, by omega, hlo, hhi, fun j' hj' hlo' hhi' =>
      rowReaches_unique distRows_follow (by omega) hj ⟨hlo', hhi'⟩ ⟨hlo, hhi⟩⟩

/-! ## Sample words -/

/-- Settles O4: each word is the one its instruction encodes to, so it decodes to it (`decodeOfEncode`); the last is
refused by evaluation. -/
theorem sampleWordsDecode : Obligations.SampleWordsDecode := by
  have word {f : Format} {w : Nat} {i : Instr} (he : encode i = some (f, w)) (hw : i.wf = true) : decode f w = .ok i :=
    (decodeOfEncode i hw).1 f w he
  exact ⟨word rfl rfl, word rfl rfl, word rfl rfl, word rfl rfl, word rfl rfl, word rfl rfl, word rfl rfl, word rfl rfl,
    word rfl rfl, word rfl rfl, word rfl rfl, word rfl rfl, word rfl rfl, word rfl rfl, word rfl rfl, word rfl rfl,
    word rfl rfl, word rfl rfl, rfl⟩

/-! ## After a row -/

section Latch
variable {p : Place} {t : State}

@[simp] theorem latchSymbol_error (h : t.seqState = .error) : latchSymbol p t = t := if_pos h

theorem latchSymbol_clCode (h : t.seqState ≠ .error) :
    latchSymbol .clCode t = { t with preSymbol := BitVec.ofNat 9 t.unitResult, place := .clSym } := if_neg h

theorem latchSymbol_litCode (h : t.seqState ≠ .error) :
    latchSymbol .litCode t = { t with symbol := BitVec.ofNat 9 t.unitResult, place := .litSym } := if_neg h

theorem latchSymbol_distCode (h : t.seqState ≠ .error) :
    latchSymbol .distCode t = if 32 ≤ t.unitResult then takeError .invalidSymbol t
      else { t with distSymbol := BitVec.ofNat 5 t.unitResult, place := .distSym } := if_neg h

theorem afterRow_inHuffmanBlock {s : State} (h : s.inHuffmanBlock = true) : afterRow s t = latchSymbol s.place t :=
  if_pos h

end Latch

/-- Settles O6: a clause per place of a code (the `latchSymbol` equations), and the other places (`afterRow_not_code`). -/
theorem symbolGoesToItsRegister : Obligations.SymbolGoesToItsRegister := by
  intro s t
  refine ⟨fun h => if_neg (by simp [h]), fun he => ?_, fun hb hne => ?_⟩
  · by_cases hb : s.inHuffmanBlock = true
    · rw [afterRow_inHuffmanBlock hb, latchSymbol_error he]
    · exact if_neg hb
  · refine ⟨fun hp => ?_, fun hp => ?_, fun hp hu => ?_, fun hp hu => ?_, fun hcl hlit hdist => ?_⟩
    · rw [afterRow_inHuffmanBlock hb, hp, latchSymbol_clCode hne]
    · rw [afterRow_inHuffmanBlock hb, hp, latchSymbol_litCode hne]
    · rw [afterRow_inHuffmanBlock hb, hp, latchSymbol_distCode hne, if_neg (by omega)]
    · rw [afterRow_inHuffmanBlock hb, hp, latchSymbol_distCode hne, if_pos hu]
    · refine afterRow_not_code ?_ t
      unfold Place.isCode
      split <;> simp_all

end Sys2Proof.Machine
end

section
/-! The bare bit reader (40_bit_stream_reader.md R130 to R140): each operation of it in all its outcomes, and what an
element of the stream does when its raw field is not all there. -/

namespace Sys2Proof.Machine

/-! ## What is refused -/

theorem Res.outcome_eq_refused {x : Res Unit} {r : Refusal} : x.outcome = .refused r ↔ x = .refused r := by
  cases x <;> simp [Res.outcome]

theorem Res.outcomeWith_eq_refused {α : Type} {x : Res α} {f : α → State → State} {r : Refusal} :
    x.outcomeWith f = .refused r ↔ x = .refused r := by
  cases x <;> simp [Res.outcomeWith, Res.bind, Res.outcome]

section Reader
variable {n : Nat} {s : State}

/-! ## BR.INIT -/

/-- Settles O21: up to IN_SIZE the operand passes its test, and the buffer is empty (`brInit_readerOk`). -/
theorem brInitBindsReader : Obligations.BrInitBindsReader := fun off s h =>
  ⟨brInit off s, if_neg (Nat.not_lt.2 h), rfl, rfl, brInit_readerOk h⟩

/-- Settles O22: the free value is within IN_SIZE (`freeOffsetIn_le`). -/
theorem brInitPastEndKeepsReader : Obligations.BrInitPastEndKeepsReader := fun _ s h =>
  have hle := freeOffsetIn_le s
  ⟨brInitPastEnd s, if_pos h, rfl, hle, (brInit_readerOk hle).congr rfl rfl rfl rfl rfl rfl⟩

/-! ## BR.READ -/

theorem read_tooMany (hn : 32 < n) : brRead n s = .raised .valueOutOfBounds s := if_pos hn

theorem read_short (hn : n ≤ 32) (hb : bytesLeft s < (n + 7) / 8) : brRead n s = .raised .outOfData s := by
  simp only [brRead]
  rw [if_neg (by omega), if_pos hb]

theorem read_refused (hn : n ≤ 32) (hb : (n + 7) / 8 ≤ bytesLeft s)
    (hf : 32 < s.bitBufferSize.toNat + 8 * ((n + 7) / 8)) : brRead n s = .refused .refillBeyond32 := by
  simp only [brRead]
  rw [if_neg (by omega), if_neg (by omega), if_pos hf]

theorem brRead_eq_refused_iff : brRead n s = .refused .refillBeyond32 ↔
    n ≤ 32 ∧ (n + 7) / 8 ≤ bytesLeft s ∧ 32 < s.bitBufferSize.toNat + 8 * ((n + 7) / 8) := by
  refine ⟨fun h => ?_, fun ⟨hn, hb, hf⟩ => read_refused hn hb hf⟩
  simp only [brRead] at h
  split at h
  · cases h
  · split at h
    · cases h
    · split at h
      · omega
      · cases h

/-- The buffer ends where the bytes not yet loaded begin (00_scope.md R12). -/
theorem ReaderBounds.pos_add_size (h : ReaderBounds s) :
    s.pos + s.bitBufferSize.toNat = 8 * s.byteStreamOffset.toNat := by
  have hl := h.loaded
  simp only [State.pos]; omega

/-- Loading `k` bytes puts the next `8 * k` bits of the input above the buffered ones. -/
theorem load_bitBuffer {k : Nat} (h : ReaderInv s) (hb : k ≤ bytesLeft s) (hf : s.bitBufferSize.toNat + 8 * k ≤ 32) :
    (brLoad k s).bitBuffer.toNat = s.bitBuffer.toNat
      + 2 ^ s.bitBufferSize.toNat * fieldAt s (8 * s.byteStreamOffset.toNat) (8 * k) := by
  have hc := h.cursor
  obtain ⟨hsame, hinv, hpos, hsize, -⟩ := load_spec k h (by simp only [bytesLeft] at hb; omega) hf
  rw [hinv.content, hpos, hsize, hsame.fieldAt, fieldAt_add, h.pos_add_size, ← h.content]

/-- Settles O23: a clause per test of BR.READ, and `load_spec` where it completes. -/
theorem brReadLoadsWholeBytes : Obligations.BrReadLoadsWholeBytes := by
  rintro n k s h rfl
  refine ⟨fun hn => congrArg Res.outcome (read_tooMany hn), fun hn hb => congrArg Res.outcome (read_short hn hb),
    fun hn hb hf => ?_, fun hn hb hf => congrArg Res.outcome (read_refused hn hb hf)⟩
  have hc := h.cursor
  obtain ⟨hsame, hinv, hpos, hsize, hoff⟩ := load_spec _ h (by omega) hf
  exact ⟨_, congrArg Res.outcome (read_spec hn hb hf), hsame, hsize, hoff, load_bitBuffer h hb hf, hpos, hinv⟩

/-! ## BR.GET_VALUE -/

/-- The bytes the refill of BR.GET_VALUE loads (40_bit_stream_reader.md R134). -/
def refillBytes (n : Nat) (s : State) : Nat := (n - s.bitBufferSize.toNat + 7) / 8

/-- The refill loads its bytes one at a time, and is refused exactly when they do not all fit. -/
theorem fill_eq (k : Nat) : ∀ {fuel : Nat} {s : State}, ReaderBounds s → n ≤ bitsLeft s → refillBytes n s = k →
    k ≤ fuel → brFill fuel n s
      = if s.bitBufferSize.toNat + 8 * k ≤ 32 then .ok () (brLoad k s) else .refused .refillBeyond32 := by
  induction k with
  | zero =>
    intro fuel s h _ hk _
    have hsize := h.size
    have hn : n ≤ s.bitBufferSize.toNat := by simp only [refillBytes] at hk; omega
    rw [if_pos (by omega)]
    cases fuel with
    | zero => rfl
    | succ fuel => exact if_neg (Nat.not_lt.2 hn)
  | succ k ih =>
    intro fuel s h hb hk hfuel
    obtain ⟨fuel, rfl⟩ : ∃ f, fuel = f + 1 := ⟨fuel - 1, by omega⟩
    have hlt : s.bitBufferSize.toNat < n := by simp only [refillBytes] at hk; omega
    have hbl : 1 ≤ bytesLeft s := by simp only [bitsLeft] at hb; omega
    simp only [brFill, if_pos hlt]
    by_cases hf : s.bitBufferSize.toNat + 8 ≤ 32
    · obtain ⟨hbounds, -, hsize, hoff, -⟩ :=
        loadByte_bounds h (by simp only [bytesLeft] at hbl; omega) hf
      have hleft : bitsLeft (brLoadByte s) = bitsLeft s := by
        simp only [bitsLeft, bytesLeft, hsize, hoff, brLoadByte_byteStreamSize] at hbl ⊢; omega
      have hr : brRead 8 s = .ok () (brLoadByte s) := read_spec (by decide) hbl hf
      rw [hr, Res.bind_ok, ih hbounds (by omega) (by simp only [refillBytes, hsize] at hk ⊢; omega) (by omega), hsize]
      simp only [brLoad, Nat.mul_add, Nat.add_assoc, Nat.add_comm 8]
    · rw [read_refused (by decide) hbl (by omega), Res.bind_refused, if_neg (by omega)]

theorem refillBytes_le_bytesLeft (hb : n ≤ bitsLeft s) : refillBytes n s ≤ bytesLeft s := by
  simp only [bitsLeft] at hb
  simp only [refillBytes]; omega

theorem getValue_tooMany (hn : 32 < n) : brGetValue n s = .raised .valueOutOfBounds s := if_pos hn

theorem getValue_zero (s : State) : brGetValue 0 s = .ok 0 s := rfl

/-- BR.GET_VALUE of bits that are there: the refill, unless it is refused, and then the bits leave the buffer
(40_bit_stream_reader.md R134, R140). -/
theorem getValue_eq (h : ReaderInv s) (h0 : n ≠ 0) (hn : n ≤ 32) (hb : Available n s) :
    brGetValue n s = if RefillFits n s then
      .ok ((brLoad (refillBytes n s) s).bitBuffer.toNat % 2 ^ n) (brTake n (brLoad (refillBytes n s) s))
      else .refused .refillBeyond32 := by
  have hleft : n ≤ bitsLeft s := by have := bitsLeft_eq h; simp only [Available] at hb; omega
  simp only [brGetValue]
  rw [if_neg (Nat.not_lt.2 hn), if_neg h0, if_neg (Nat.not_lt.2 hleft),
    fill_eq _ h.toReaderBounds hleft rfl (by simp only [refillBytes]; omega)]
  show (if RefillFits n s then _ else _ : Res Unit).bind _ = _
  split <;> rfl

theorem refillFits_zero (h : ReaderBounds s) : RefillFits 0 s := by
  have := h.size
  simp only [RefillFits]; omega

theorem getValue_refused (h : ReaderInv s) (hn : n ≤ 32) (hb : Available n s) (hf : ¬ RefillFits n s) :
    brGetValue n s = .refused .refillBeyond32 := by
  have h0 : n ≠ 0 := fun h0 => hf (h0 ▸ refillFits_zero h.toReaderBounds)
  rw [getValue_eq h h0 hn hb, if_neg hf]

/-- When BR.GET_VALUE completes it has loaded no byte it did not need. -/
theorem getValue_size {v : Nat} {t : State} (h : ReaderInv s) (hn : n ≤ 32) (hb : Available n s) (hf : RefillFits n s)
    (ht : brGetValue n s = .ok v t) : t.bitBufferSize.toNat + n = s.bitBufferSize.toNat + 8 * refillBytes n s := by
  by_cases h0 : n = 0
  · subst h0
    cases ht
    simp [refillBytes]
  · rw [getValue_eq h h0 hn hb, if_pos hf] at ht
    cases ht
    have hbytes : refillBytes n s ≤ bytesLeft s :=
      refillBytes_le_bytesLeft (by have := bitsLeft_eq h; simp only [Available] at hb; omega)
    have hc := h.cursor
    obtain ⟨-, hinv, -, hsize, -⟩ := load_spec (refillBytes n s) h (by simp only [bytesLeft] at hbytes; omega) hf
    have henough : n ≤ (brLoad (refillBytes n s) s).bitBufferSize.toNat := by rw [hsize, refillBytes]; omega
    obtain ⟨-, -, htake, -⟩ := take_bounds hinv.toReaderBounds henough
    rw [htake, hsize]; omega

/-- Settles O24: a clause per test of BR.GET_VALUE; `getValue_spec` and `getValue_size` where it completes. -/
theorem brGetValueReturnsNextBits : Obligations.BrGetValueReturnsNextBits := by
  intro n s h
  have outcome {x : Res Nat} (hx : brGetValue n s = x) : exec (.brGetValue n) s = x.outcomeWith setResult := by
    rw [← hx]; rfl
  refine ⟨fun hn => outcome (getValue_tooMany hn), ?_, fun hn hb => outcome (getValue_short h hn hb),
    fun hn hb hf => ?_, fun hn hb hf => outcome (getValue_refused h hn hb hf)⟩
  · rintro rfl
    exact outcome (getValue_zero s)
  · obtain ⟨r, hr, hsame, hinv, hpos, -⟩ := getValue_spec h hn hb hf
    exact ⟨r, outcome hr, hsame, hpos, hinv, getValue_size h hn hb hf hr⟩

theorem brGetValue_eq_refused_iff (h : ReaderInv s) :
    brGetValue n s = .refused .refillBeyond32 ↔ n ≤ 32 ∧ Available n s ∧ ¬ RefillFits n s := by
  refine ⟨fun hr => ?_, fun ⟨hn, hb, hf⟩ => getValue_refused h hn hb hf⟩
  by_cases hn : 32 < n
  · cases (getValue_tooMany hn).symm.trans hr
  · have hn := Nat.not_lt.1 hn
    by_cases hb : Available n s
    · refine ⟨hn, hb, fun hf => ?_⟩
      obtain ⟨u, hu, -⟩ := getValue_spec h hn hb hf
      cases hu.symm.trans hr
    · cases (getValue_short h hn hb).symm.trans hr

/-- Settles O25: the two operations' refusals, and the sequencer's reads (`getValue_consumed`, `getValue_short`). -/
theorem refillBeyond32Refused : Obligations.RefillBeyond32Refused := by
  intro n s h
  refine ⟨Res.outcomeWith_eq_refused.trans (brGetValue_eq_refused_iff h),
    Res.outcome_eq_refused.trans brRead_eq_refused_iff, fun hfew hn => ?_⟩
  show ∃ t, (brGetValue n s).outcomeWith setResult = .next t
  by_cases hb : Available n s
  · obtain ⟨u, hu, -⟩ := getValue_consumed ⟨h, hfew⟩ hn hb
    exact ⟨_, by rw [hu, Res.outcomeWith_ok]⟩
  · exact ⟨_, by rw [getValue_short h (by omega) hb, Res.outcomeWith_raised]⟩

/-! ## BR.FLUSH, BR.READ_BYTE and BR.REMAINING_BYTES -/

/-- The next byte boundary is as far from POS as the rest of the partly consumed byte is long. -/
theorem alignUp_pos (h : ReaderBounds s) : alignUp s.pos = s.pos + s.bitBufferSize.toNat % 8 := by
  have := h.pos_add_size
  simp only [alignUp]; omega

/-- Settles O26: BR.FLUSH takes the rest of the partly consumed byte (`take_bounds`). -/
theorem brFlushAligns : Obligations.BrFlushAligns := by
  intro s h
  have hle := Nat.mod_le s.bitBufferSize.toNat 8
  obtain ⟨-, hpos, hsize, hbuf⟩ := take_bounds h.toReaderBounds hle
  refine ⟨brFlush s, rfl, rfl, hbuf, hsize, rfl, ?_, hpos.trans (alignUp_pos h.toReaderBounds).symm,
    (take_spec h hle).1, fun hfew => ?_⟩
  · show (brTake _ s).bitBufferSize.toNat % 8 = 0
    omega
  · have hmod : s.bitBufferSize.toNat % 8 = s.bitBufferSize.toNat := Nat.mod_eq_of_lt (by omega)
    rw [hmod] at hbuf hsize
    unfold brFlush
    rw [hmod]
    exact ⟨BitVec.eq_of_toNat_eq (hbuf.trans (Nat.div_eq_of_lt h.clear)),
      BitVec.eq_of_toNat_eq (hsize.trans (Nat.sub_self _))⟩

/-- With whole bytes in the buffer BR.READ_BYTE needs at most one more, which fits. -/
theorem refillFits_byte (h : ReaderBounds s) (h8 : s.bitBufferSize.toNat % 8 = 0) : RefillFits 8 s := by
  have := h.size
  simp only [RefillFits]; omega

/-- BR.READ_BYTE with whole bytes in the buffer, of which there may be some (40_bit_stream_reader.md R138). -/
theorem readByte_aligned (h : ReaderInv s) (h8 : s.bitBufferSize.toNat % 8 = 0) (hb : Available 8 s) :
    ∃ u, brReadByte s = .ok (memReadIn (s.pos / 8) s) u ∧ Taken 8 s u := by
  obtain ⟨u, hu, hsame, hinv, hpos, -⟩ := getValue_spec h (by decide) hb (refillFits_byte h.toReaderBounds h8)
  have hpos8 : s.pos = 8 * (s.pos / 8) := by have := h.pos_add_size; omega
  have hbyte : fieldAt s s.pos 8 = (memReadIn (s.pos / 8) s).toNat := by
    rw [hpos8, fieldAt_byte, ← hpos8]
  refine ⟨u, ?_, hsame, hpos, hinv⟩
  rw [brReadByte, hu, Res.bind_ok, hbyte, BitVec.ofNat_toNat, BitVec.setWidth_eq]

theorem readByte_short (h : ReaderInv s) (hb : ¬ Available 8 s) : brReadByte s = .raised .outOfData s := by
  rw [brReadByte, getValue_short h (by decide) hb, Res.bind_raised]

theorem remainingBytes_aligned (h : ReaderInv s) (h8 : s.bitBufferSize.toNat % 8 = 0) :
    brRemainingBytes s = s.byteStreamSize.toNat - s.pos / 8 := by
  have hend := h.pos_add_size; have hc := h.cursor
  simp only [brRemainingBytes, bytesLeft]; omega

/-- Settles O27: BR.READ_BYTE where the byte is there and where it is not, and BR.REMAINING_BYTES. -/
theorem alignedByteAccess : Obligations.AlignedByteAccess := by
  intro s h h8
  have outcome {x : Res Byte} (hx : brReadByte s = x) :
      exec .brReadByte s = x.outcomeWith fun b u => setResult b.toNat u := by
    rw [← hx]; rfl
  refine ⟨fun hb => ?_, fun hb => outcome (readByte_short h hb), ?_⟩
  · obtain ⟨r, hr, hsame, hpos, hinv⟩ := readByte_aligned h h8 hb
    have hend := h.pos_add_size; have hend' := hinv.pos_add_size
    exact ⟨r, outcome hr, hsame, hpos, by omega, hinv⟩
  · rw [← remainingBytes_aligned h h8]
    rfl

/-! ## Elements cut short -/

/-- Every raw field is within what the sequencer may read at once (40_bit_stream_reader.md R137). -/
theorem rawBits_le {i : Instr} (h : rawBits i = some n) : n ≤ 25 := by
  cases i <;> cases h <;> decide

theorem rawBits_of_lenIndex {i : Instr} {k : Nat} (h : i.lenIndex = some k) : rawBits i = some (lenExtra k) := by
  cases i <;> cases h <;> rfl

theorem rawBits_of_distIndex {i : Instr} {j : Nat} (h : i.distIndex = some j) : rawBits i = some (distExtra j) := by
  cases i <;> cases h <;> rfl

/-- An element takes the error that the read of its raw field raises; CL.REP comes to that read only where there is a
previous length (42_deflate_framing.md R185). -/
theorem exec_of_rawField_raised {i : Instr} {e : ErrorKind} {t : State} (h : rawBits i = some n)
    (hr : brGetValue n s = .raised e t) (hrep : i = .clRep → s.clIndex ≠ 0) : exec i s = .next (takeError e t) := by
  cases hk : i.lenIndex with
  | some k =>
    cases h.symm.trans (rawBits_of_lenIndex hk)
    rw [exec_of_lenIndex hk, lengthElement, hr, Res.outcomeWith_raised]
  | none =>
    cases hj : i.distIndex with
    | some j =>
      cases h.symm.trans (rawBits_of_distIndex hj)
      rw [exec_of_distIndex hj, distanceElement, hr, Res.outcomeWith_raised]
    | none =>
      have hframing : i.lenIndex.or i.distIndex = none := by rw [hk, hj, Option.or_none]
      cases i
      case bhdrStored | bhdrFixed | bhdrDynamic | bhdrReserved =>
        cases h
        simp [exec, execBhdrStored, execBhdrFixed, execBhdrDynamic, execBhdrReserved, blockHeader, hr]
      case dynhdr | prelen | clZrep3 | clZrep11 =>
        cases h
        simp [exec, execDynhdr, execPrelen, execClZrep3, execClZrep11, hr]
      case clRep =>
        cases h
        show Res.outcome (if s.clIndex = 0 then _ else _) = _
        rw [if_neg (hrep rfl), hr, Res.bind_raised, Res.outcome_raised]
      -- what is left has an index (against `hframing`) or no raw field (against `h`)
      all_goals cases hframing <;> cases h

/-- Settles O57: the read of the raw field raises in the state at hand (`getValue_short`). -/
theorem shortFieldRaisesOutOfData : Obligations.ShortFieldRaisesOutOfData := fun i n s hi hs hb hrep =>
  have hn : n ≤ 25 := rawBits_le hi
  exec_of_rawField_raised hi (getValue_short hs.inv (by omega) hb) hrep

end Reader

end Sys2Proof.Machine
end

section
/-! The Huffman tree decoder (41_huffman_tree_decoder.md R150 to R162): the tree HT.BUILD makes is the canonical code of
its code lengths, and HT.DECODE_SYMBOL returns the symbol of the first code that matches. -/

namespace Sys2Proof.Machine

/-! ## Symbols by code length -/

section Lengths
variable {ls : List (BitVec 8)}

/-- The first symbol is 0; each other one is one above the symbol it is in the rest of the list. -/
theorem symbolsOfLength_cons (l : BitVec 8) (ls : List (BitVec 8)) (L : Nat) : symbolsOfLength (l :: ls) L =
    if l.toNat = L then 0 :: (symbolsOfLength ls L).map Nat.succ else (symbolsOfLength ls L).map Nat.succ := by
  simp [symbolsOfLength, List.range_succ_eq_map, List.filter_cons, List.filter_map, Function.comp_def]

/-- The symbols HT.BUILD lists, as numbers. -/
theorem map_toNat_symsOf (L : Nat) : ∀ first, first + ls.length ≤ 512 →
    (symsOf L first ls).map BitVec.toNat = (symbolsOfLength ls L).map (first + ·) := by
  induction ls with
  | nil => exact fun _ _ => rfl
  | cons l ls ih =>
    intro first hn
    rw [List.length_cons] at hn
    have hfirst : (BitVec.ofNat 9 first).toNat = first := Nat.mod_eq_of_lt (by omega)
    rw [symsOf, symbolsOfLength_cons]
    split <;>
      simp [ih (first + 1) (by omega), hfirst, Function.comp_def, Nat.add_assoc, Nat.add_comm 1]

theorem map_toNat_symsOf_zero (L : Nat) (hn : ls.length ≤ 511) :
    (symsOf L 0 ls).map BitVec.toNat = symbolsOfLength ls L := by
  simpa using map_toNat_symsOf L 0 (ls := ls) (by omega)

theorem mem_symbolsOfLength {i L : Nat} (h : (ls[i]?).map BitVec.toNat = some L) : i ∈ symbolsOfLength ls L := by
  obtain ⟨l, hl, -⟩ := Option.map_eq_some_iff.1 h
  exact List.mem_filter.2 ⟨List.mem_range.2 (List.getElem?_eq_some_iff.1 hl).1, decide_eq_true h⟩

/-- In a list of rising symbols, a symbol stands behind exactly those below it. -/
theorem getElem?_length_filter_lt {l : List Nat} {i : Nat} (hl : l.Pairwise (· < ·)) (hi : i ∈ l) :
    l[(l.filter fun j => decide (j < i)).length]? = some i := by
  induction l with
  | nil => cases hi
  | cons a l ih =>
    obtain ⟨ha, hl⟩ := List.pairwise_cons.1 hl
    obtain rfl | hi := List.mem_cons.1 hi
    · have hnone : l.filter (fun j => decide (j < i)) = [] :=
        List.filter_eq_nil_iff.2 fun j hj => by simpa using (ha j hj).le
      simp [hnone]
    · simp [ha i hi, ih hl hi]

theorem symbolsOfLength_pairwise (ls : List (BitVec 8)) (L : Nat) : (symbolsOfLength ls L).Pairwise (· < ·) :=
  List.pairwise_lt_range.filter _

/-! ## First codes -/

/-- What a symbol of code length `l` adds to `FIRST_CODE[L]`: the `L`-bit strings that begin with its code. -/
def stringsUnder (l L : Nat) : Nat := if 0 < l ∧ l < L then 2 ^ (L - l) else 0

theorem stringsUnder_succ (l L : Nat) :
    stringsUnder l (L + 1) = (stringsUnder l L + if 0 < l ∧ l = L then 1 else 0) * 2 := by
  simp only [stringsUnder]
  obtain hlt | rfl | hgt := Nat.lt_trichotomy l L
  · rw [show L + 1 - l = L - l + 1 by omega, Nat.pow_succ]
    split_ifs <;> omega
  · rw [Nat.add_sub_cancel_left]
    split_ifs <;> omega
  · rw [if_neg (by omega), if_neg (by omega), if_neg (by omega)]

theorem stringsUnder_le (l L : Nat) : stringsUnder l L ≤ 2 ^ L := by
  unfold stringsUnder
  split
  · exact Nat.pow_le_pow_right (by decide) (Nat.sub_le L l)
  · exact Nat.zero_le _

theorem symsOf_length (L : Nat) (ls : List (BitVec 8)) : ∀ first, (symsOf L first ls).length =
    ls.countP fun l => decide (l.toNat = L) := by
  induction ls with
  | nil => exact fun _ => rfl
  | cons l ls ih =>
    intro first
    rw [symsOf, List.countP_cons]
    split <;> simp [*]

theorem countOf_cons (l : BitVec 8) (ls : List (BitVec 8)) (L : Nat) :
    countOf (l :: ls) L = countOf ls L + if 0 < l.toNat ∧ l.toNat = L then 1 else 0 := by
  simp only [countOf, symsOf_length, List.countP_cons, decide_eq_true_eq]
  split_ifs <;> omega

theorem firstCodeOf_nil (L : Nat) : firstCodeOf [] L = 0 := by
  induction L with
  | zero => rfl
  | succ L ih => rw [firstCodeOf, ih, countOf, symsOf, List.length_nil, ite_self]

theorem firstCodeOf_cons (l : BitVec 8) (ls : List (BitVec 8)) (L : Nat) :
    firstCodeOf (l :: ls) L = firstCodeOf ls L + stringsUnder l.toNat L := by
  induction L with
  | zero => simp [firstCodeOf, stringsUnder]
  | succ L ih =>
    rw [firstCodeOf, ih, countOf_cons, firstCodeOf, stringsUnder_succ]
    omega

theorem firstCodeOf_le (ls : List (BitVec 8)) (L : Nat) : firstCodeOf ls L ≤ ls.length * 2 ^ L := by
  induction ls with
  | nil => rw [firstCodeOf_nil]; exact Nat.zero_le _
  | cons l ls ih =>
    rw [firstCodeOf_cons, List.length_cons, Nat.succ_mul]
    exact Nat.add_le_add ih (stringsUnder_le _ _)

/-- The codes of length `L` all stand above the strings of `L` bits that begin with a shorter code. -/
theorem codes_below_firstCodeOf (ls : List (BitVec 8)) {j L : Nat} (hj : j < L) :
    (firstCodeOf ls j + countOf ls j) * 2 ^ (L - j) ≤ firstCodeOf ls L := by
  induction L, hj using Nat.le_induction with
  | base => rw [Nat.succ_eq_add_one, Nat.add_sub_cancel_left]; exact Nat.le_refl _
  | succ L hj ih =>
    rw [Nat.succ_sub (Nat.le_of_succ_le hj), Nat.pow_succ, ← Nat.mul_assoc, firstCodeOf]
    exact Nat.mul_le_mul_right 2 (ih.trans (Nat.le_add_right _ _))

/-! ## The built tree -/

/-- FIRST_CODE holds the first codes where NUMBER_OF_SYMBOLS can count the symbols: they fit in 24 bits. -/
theorem buildTree_firstCodeAt (hn : ls.length ≤ 511) {L : Nat} (hL : L ≤ 15) :
    (buildTree ls).firstCodeAt L = firstCodeOf ls L := by
  have hfits : firstCodeOf ls L < 2 ^ 24 := calc
    firstCodeOf ls L ≤ ls.length * 2 ^ L := firstCodeOf_le ls L
    _ ≤ 511 * 2 ^ 15 := Nat.mul_le_mul hn (Nat.pow_le_pow_right (by decide) hL)
    _ < 2 ^ 24 := by decide
  simpa [TreeStore.firstCodeAt, buildTree, Nat.lt_succ_of_le hL] using hfits

theorem buildTree_numberOfSymbols (hn : ls.length ≤ 511) : (buildTree ls).numberOfSymbols.toNat = ls.length :=
  Nat.mod_eq_of_lt (by omega)

theorem buildTree_map_toNat_symsAt (hn : ls.length ≤ 511) {L : Nat} (h1 : 1 ≤ L) (hL : L ≤ 15) :
    ((buildTree ls).symsAt L).map BitVec.toNat = symbolsOfLength ls L := by
  rw [buildTree_symsAt ls (Nat.lt_succ_of_le hL), if_neg (by omega), map_toNat_symsOf_zero L hn]

theorem buildTree_canonical (hn : ls.length ≤ 511) : CanonicalTree ls (buildTree ls) where
  number := buildTree_numberOfSymbols hn
  built := rfl
  countZero := buildTree_countAt ls (by decide)
  symbols L h1 hL := buildTree_map_toNat_symsAt hn h1 hL
  count L h1 hL := by rw [← buildTree_map_toNat_symsAt hn h1 hL, List.length_map, TreeStore.countAt]
  firstZero := buildTree_firstCodeAt hn (by decide)
  first L hL := by
    rw [buildTree_firstCodeAt hn hL, buildTree_firstCodeAt hn hL.le, buildTree_countAt ls (by omega), firstCodeOf]

end Lengths

/-! ## HT.BUILD -/

section Build
variable {t : TreeId} {ls : List (BitVec 8)}

theorem exec_htBuild_tooLong (t : TreeId) (s : State) (h : ∃ l ∈ ls, 15 < l.toNat) :
    exec (.htBuild t ls) s = .next (takeError .invalidCodeLengths s) := by
  show execHtBuild t ls s = _
  rw [execHtBuild, htBuild_raised s h, Res.bind_raised, Res.outcome_raised]

/-- On a writable store HT.BUILD replaces the store, and nothing else unless the new tree is a free value (log 40). -/
theorem exec_htBuild_writable (ht : t.writable = true) (s : State) (h : ∀ l ∈ ls, l.toNat ≤ 15) :
    exec (.htBuild t ls) s = .next (if ls.length < 512 then s.setTree t (buildTree ls)
      else takeFree (s.setTree t (freeTree s))) := by
  show execHtBuild t ls s = _
  rw [execHtBuild, htBuild_of_le s h, ht]
  split <;> rfl

theorem setTree_constant (ht : t.writable = false) (s : State) (T : TreeStore) : s.setTree t T = s := by
  cases t with
  | pre | dynLit | dynDist => cases ht
  | fixLit | fixDist => rfl

/-- On a constant store HT.BUILD changes nothing, or is refused (log 16). -/
theorem exec_htBuild_constant (ht : t.writable = false) (s : State) (h : ∀ l ∈ ls, l.toNat ≤ 15) :
    exec (.htBuild t ls) s =
      if ls.length ≤ 511 ∧ buildTree ls = s.tree t then .next s else .refused (.readOnlyTree t) := by
  show execHtBuild t ls s = _
  rw [execHtBuild, htBuild_of_le s h, ht, setTree_constant ht, setTree_constant ht]
  by_cases hn : ls.length < 512
  · simp only [if_pos hn, Res.bind_ok, Bool.false_or, Bool.and_eq_true, decide_eq_true_eq, beq_iff_eq,
      Nat.lt_succ_iff.symm]
    split <;> rfl
  · rw [if_neg hn, if_neg (by omega)]
    simp [hn]

end Build

/-- Settles O28: HT.BUILD puts the tree of the lengths into the store, and that tree is canonical
(`buildTree_canonical`). -/
theorem htBuildMakesCanonicalTree : Obligations.HtBuildMakesCanonicalTree := fun t ls s ht _ hn =>
  ⟨exec_htBuild_tooLong t s, fun hle =>
    ⟨buildTree ls, by rw [exec_htBuild_writable ht s hle, if_pos (by omega)], buildTree_canonical (by omega)⟩⟩

/-- Settles O29: the test of the lengths, the two writable cases by the number of lengths, and the constant stores
(`exec_htBuild_constant`). -/
theorem htBuildOutsideItsOperands : Obligations.HtBuildOutsideItsOperands := by
  intro t ls s
  refine ⟨exec_htBuild_tooLong t s, fun ht hle _ => ?_, fun ht hle => exec_htBuild_constant ht s hle⟩
  by_cases hn : ls.length ≤ 511
  · refine ⟨buildTree ls, rfl, fun _ => ⟨?_, buildTree_canonical hn⟩, fun hbig => absurd hn (Nat.not_le.2 hbig)⟩
    rw [exec_htBuild_writable ht s hle, if_pos (by omega)]
  · refine ⟨freeTree s, rfl, fun hsmall => absurd hsmall hn, fun _ => ?_⟩
    rw [exec_htBuild_writable ht s hle, if_neg (by omega)]
    cases t <;> rfl

/-! ## HT.DECODE_SYMBOL -/

section Decode
variable {t : TreeId} {T : TreeStore} {s : State} {L c : Nat}

theorem lookup_eq_some_of_hasCode {sym : BitVec 9} (h : T.HasCode L c sym) : T.lookup L c = some sym :=
  have ⟨hfirst, _, hsym⟩ := h
  lookup_eq_some.2 ⟨hfirst, hsym⟩

theorem lookup_eq_none_iff_noCode : T.lookup L c = none ↔ T.NoCode L c := by
  simp only [TreeStore.lookup, TreeStore.NoCode, TreeStore.countAt]
  split
  · rw [List.getElem?_eq_none_iff]; omega
  · exact iff_of_true rfl fun ⟨hfirst, _⟩ => absurd hfirst ‹_›

theorem exec_htDecodeSymbol_unbuilt (hT : (s.tree t).built = false) :
    exec (.htDecodeSymbol t) s = .refused (.treeNotBuilt t) := by
  show (htMatch t s).outcomeWith _ = _
  rw [htMatch, hT]
  rfl

theorem exec_htDecodeSymbol_built (hT : (s.tree t).built = true) : exec (.htDecodeSymbol t) s =
    (htMatchLoop (s.tree t) 15 0 0 s).outcomeWith fun m u => setResult m.symbol.toNat u := by
  show (htMatch t s).outcomeWith _ = _
  rw [htMatch, if_pos hT]

theorem Taken.available {m n : Nat} {u : State} (h : Taken m s u) : Available n u ↔ Available (m + n) s := by
  simp only [Available, h.pos, h.same.streamSize, Nat.add_assoc]

/-- One bit more, where the reader has it: the refill of one byte always fits. -/
theorem getValue_nextBit {m : Nat} {u : State} (h : Taken m s u) (ha : Available (m + 1) s) :
    ∃ v, brGetValue 1 u = .ok (inBit s (s.pos + m)) v ∧ Taken (m + 1) s v := by
  have hsize := h.inv.size
  obtain ⟨v, hv, hsame, hinv, hpos, -⟩ :=
    getValue_spec h.inv (n := 1) (by decide) (h.available.2 ha) (by simp only [RefillFits]; omega)
  rw [h.same.fieldAt, fieldAt_one, h.pos] at hv
  exact ⟨v, hv, h.same.trans hsame, by rw [hpos, h.pos]; rfl, hinv⟩

/-- As long as the bits read are no code, the loop reads on: after `m` bits it goes on from the code they are. -/
theorem matchLoop_readsOn (h : ReaderInv s) (fuel : Nat) {m : Nat} (ha : Available m s)
    (hno : ∀ j, 1 ≤ j → j ≤ m → T.NoCode j (codeAt s s.pos j)) :
    ∃ u, Taken m s u ∧ htMatchLoop T (m + fuel) 0 0 s = htMatchLoop T fuel m (codeAt s s.pos m) u := by
  induction m generalizing fuel with
  | zero => exact ⟨s, ⟨.refl s, rfl, h⟩, by rw [Nat.zero_add]; rfl⟩
  | succ m ih =>
    have ham : Available m s := by simp only [Available] at ha ⊢; omega
    obtain ⟨u, hu, hloop⟩ := ih (fuel + 1) ham fun j h1 hj => hno j h1 (by omega)
    obtain ⟨v, hv, htaken⟩ := getValue_nextBit hu ha
    have hnone : T.lookup (m + 1) (2 * codeAt s s.pos m + inBit s (s.pos + m)) = none :=
      lookup_eq_none_iff_noCode.2 (hno (m + 1) (by omega) (Nat.le_refl _))
    refine ⟨v, htaken, ?_⟩
    rw [show m + 1 + fuel = m + (fuel + 1) by omega, hloop, htMatchLoop, hv, Res.bind_ok, hnone, codeAt]

/-- Settles O30: the loop reads on to the length, or the bit, in question (`matchLoop_readsOn`); there the pair matches,
or 15 bits have been read, or the next bit is not there. -/
theorem htDecodeSymbolFirstMatch : Obligations.HtDecodeSymbolFirstMatch := by
  intro t s h
  refine ⟨exec_htDecodeSymbol_unbuilt, fun hT => ?_⟩
  rw [exec_htDecodeSymbol_built hT]
  refine ⟨fun L sym h1 hL ha hno hcode => ?_, fun ha hno => ?_, fun m hm ha hshort hno => ?_⟩
  · obtain ⟨m, rfl⟩ : ∃ m, L = m + 1 := ⟨L - 1, by omega⟩
    have ham : Available m s := by simp only [Available] at ha ⊢; omega
    obtain ⟨u, hu, hloop⟩ := matchLoop_readsOn h (14 - m + 1) ham fun j h1 hj => hno j h1 (by omega)
    obtain ⟨r, hr, htaken⟩ := getValue_nextBit hu ha
    have hsome : (s.tree t).lookup (m + 1) (2 * codeAt s s.pos m + inBit s (s.pos + m)) = some sym :=
      lookup_eq_some_of_hasCode hcode
    refine ⟨r, htaken, ?_⟩
    rw [show 15 = m + (14 - m + 1) by omega, hloop, htMatchLoop, hr, Res.bind_ok, hsome, Res.outcomeWith_ok]
    rfl
  · obtain ⟨r, hr, hloop⟩ := matchLoop_readsOn h 0 ha hno
    exact ⟨r, hr, by rw [hloop, htMatchLoop, Res.outcomeWith_raised]⟩
  · obtain ⟨r, hr, hloop⟩ := matchLoop_readsOn h (14 - m + 1) ha hno
    refine ⟨r, hr, ?_⟩
    rw [show 15 = m + (14 - m + 1) by omega, hloop, htMatchLoop,
      getValue_short hr.inv (by decide) (mt hr.available.1 hshort), Res.bind_raised, Res.outcomeWith_raised]

/-- The code of the first bits is what is left of a longer code without its last bits. -/
theorem codeAt_eq_div (s : State) (p j k : Nat) : codeAt s p j = codeAt s p (j + k) / 2 ^ k := by
  induction k with
  | zero => simp
  | succ k ih =>
    have hbit := inBit_lt s (p + (j + k))
    rw [ih, Nat.pow_succ', ← Nat.div_div_eq_div_mul, ← Nat.add_assoc, codeAt]
    congr 1; omega

end Decode

/-! ## Canonical codes -/

section Canonical
variable {ls : List (BitVec 8)} {s : State}

/-- The code of symbol `i` among those of length `L` (41_huffman_tree_decoder.md R152). -/
def canonicalCode (ls : List (BitVec 8)) (i L : Nat) : Nat :=
  firstCodeOf ls L + ((symbolsOfLength ls L).filter fun j => decide (j < i)).length

theorem buildTree_lookup_canonicalCode (hn : ls.length ≤ 511) {i L : Nat} (hi : (ls[i]?).map BitVec.toNat = some L)
    (h1 : 1 ≤ L) (hL : L ≤ 15) :
    ∃ sym, (buildTree ls).lookup L (canonicalCode ls i L) = some sym ∧ sym.toNat = i := by
  have hsyms := getElem?_length_filter_lt (symbolsOfLength_pairwise ls L) (mem_symbolsOfLength hi)
  rw [← buildTree_map_toNat_symsAt hn h1 hL, List.getElem?_map, buildTree_map_toNat_symsAt hn h1 hL] at hsyms
  obtain ⟨sym, hsym, hval⟩ := Option.map_eq_some_iff.1 hsyms
  refine ⟨sym, lookup_eq_some.2 ?_, hval⟩
  rw [buildTree_firstCodeAt hn hL, canonicalCode, Nat.add_sub_cancel_left]
  exact ⟨Nat.le_add_right _ _, hsym⟩

/-- No shorter code begins the bits at POS when they are the code of a symbol: the canonical code is a prefix code. -/
theorem buildTree_noCode_of_shorter (hn : ls.length ≤ 511) {p i j L : Nat} (hj : j < L) (hL : L ≤ 15)
    (hc : codeAt s p L = canonicalCode ls i L) : (buildTree ls).NoCode j (codeAt s p j) := by
  have habove : firstCodeOf ls j + countOf ls j ≤ codeAt s p j := by
    rw [codeAt_eq_div s p j (L - j), Nat.add_sub_cancel' hj.le, hc, Nat.le_div_iff_mul_le (Nat.two_pow_pos _)]
    exact (codes_below_firstCodeOf ls hj).trans (Nat.le_add_right _ _)
  rintro ⟨-, hlt⟩
  rw [buildTree_firstCodeAt hn (by omega), buildTree_countAt ls (by omega)] at hlt
  omega

/-- Settles O31: at the symbol's own length the pair is in the table (`buildTree_lookup_canonicalCode`), at no shorter
one (`buildTree_noCode_of_shorter`). That the lengths do not over-subscribe the code space is not used: what it ensures,
that the code is below `2 ^ L`, is there already, since the code stands in the stream. -/
theorem canonicalCodesDecode : Obligations.CanonicalCodesDecode := by
  intro t ls s i L h hn hle _ htree hi h1 ha hc
  obtain ⟨l, hl, rfl⟩ := Option.map_eq_some_iff.1 hi
  have hL : l.toNat ≤ 15 := hle l (List.mem_of_getElem? hl)
  obtain ⟨k, hk⟩ : ∃ k, l.toNat = k + 1 := ⟨l.toNat - 1, by omega⟩
  obtain ⟨sym, hsym, rfl⟩ := buildTree_lookup_canonicalCode (by omega) hi h1 hL
  rw [canonicalCode, ← hc, hk] at hsym
  obtain ⟨r, hr, hcons⟩ := matchLoop_found (t := buildTree ls) (sym := sym) k 15 0 s.pos h rfl (by omega) (hk ▸ ha)
    (fun j hj => lookup_eq_none_iff_noCode.2 (buildTree_noCode_of_shorter (by omega) (by omega) hL hc))
    (by rw [Nat.zero_add]; exact hsym)
  refine ⟨r, hk ▸ hcons, ?_⟩
  rw [exec_htDecodeSymbol_built (by rw [htree]; rfl), htree]
  rw [codeAt] at hr
  rw [hr, Res.outcomeWith_ok]
  rfl

/-- Settles O32: the symbols HT.BUILD lists are below the number of lengths (`buildTree_symbolsBelow`), and a pair in a
code range is in the table, since COUNT is the length of SYMS. -/
theorem symbolsBelowNumberOfSymbols : Obligations.SymbolsBelowNumberOfSymbols := by
  intro ls L c hn
  refine ⟨fun sym hcode => ?_, fun hcode => ?_⟩
  · rw [buildTree_numberOfSymbols (by omega)]
    exact buildTree_symbolsBelow (Nat.le_refl _) (by omega) L sym (lookup_mem (lookup_eq_some_of_hasCode hcode))
  · obtain ⟨hfirst, hlt⟩ := not_not.1 hcode
    exact ⟨_, hfirst, hlt, List.getElem?_eq_getElem (Nat.sub_lt_left_of_lt_add hfirst hlt)⟩

end Canonical

/-! ## The constant trees -/

theorem map_toNat_symRange (n : Nat) : ∀ first, first + n ≤ 512 →
    (symRange first n).map BitVec.toNat = (List.range n).map (first + ·) := by
  induction n with
  | zero => exact fun _ _ => rfl
  | succ n ih =>
    intro first hn
    have hfirst : (BitVec.ofNat 9 first).toNat = first := Nat.mod_eq_of_lt (by omega)
    simp [symRange, List.range_succ_eq_map, ih (first + 1) (by omega), hfirst, Function.comp_def, Nat.add_assoc,
      Nat.add_comm 1]

/-- The fixed code lengths of the literal/length symbols (41_huffman_tree_decoder.md R160). -/
theorem fixLitLengths_getElem? {i : Nat} (hi : i < 288) : fixLitLengths[i]? =
    some (if i ≤ 143 then 8 else if i ≤ 255 then 9 else if i ≤ 279 then 7 else 8) := by
  simp only [fixLitLengths, List.getElem?_append, List.getElem?_replicate, List.length_replicate]
  grind

theorem fixLitLengths_length : fixLitLengths.length = 288 := by
  simp only [fixLitLengths, List.length_append, List.length_replicate]

/-- Settles O33: both trees are what `buildTree` computes of the fixed lengths; their symbols are ranges
(`map_toNat_symRange`). -/
theorem fixedTreesAreBuilt : Obligations.FixedTreesAreBuilt := by
  refine ⟨by decide +kernel, by decide +kernel, fun _ => ⟨rfl, rfl⟩, fun _ => fixLitLengths_getElem?,
    fixLitLengths_length, rfl, rfl, rfl, rfl, rfl, rfl, rfl, rfl, rfl, map_toNat_symRange 24 256 (by decide), ?_,
    map_toNat_symRange 112 144 (by decide), rfl, rfl, ?_⟩
  · show (symRange 0 144 ++ symRange 280 8).map BitVec.toNat = _
    rw [List.map_append, map_toNat_symRange 144 0 (by decide), map_toNat_symRange 8 280 (by decide)]
    simp only [Nat.zero_add, List.map_id']
  · show (symRange 0 30).map BitVec.toNat = _
    rw [map_toNat_symRange 30 0 (by decide)]
    simp only [Nat.zero_add, List.map_id']

end Sys2Proof.Machine
end

section
/-! The stream header and the block headers (42_deflate_framing.md R170 to R180). -/

namespace Sys2Proof.Machine

/-! ## The stream header -/

/-- Settles O38: each row makes the one test of IN_SIZE that it has. -/
theorem headerRows : Obligations.HeaderRows := by
  intro cinfo3 cm cinfo4 fcheck fdict flevel s
  refine ⟨fun h => ?_, fun h => ?_, fun h => ?_, fun h => ?_⟩
  · exact ⟨if_neg (Nat.not_lt.2 h), if_neg (Nat.not_lt.2 h)⟩
  · exact ⟨if_neg (Nat.not_lt.2 h), if_neg (Nat.not_lt.2 h)⟩
  · exact ⟨if_pos h, if_pos h⟩
  · exact ⟨if_pos h, if_pos h⟩

/-- Every word of two bytes is a header row (30_encoding.md R92). -/
theorem fetched_zhdr16 {w : Nat} (hw : w < 2 ^ 16) : fetched .zhdr16 w = .instr (decodeZhdr w) := by
  rw [fetched, decode_eq_ok_iff.2 ⟨hw, rfl⟩]

/-- In HEADER the word is byte 0 and, if it is there, byte 1 (log 22). -/
theorem nextInstr_header {s : State} (hq : s.seqState = .header) (h : 1 ≤ s.inSize.toNat) :
    nextInstr s = .instr (decodeZhdr ((memReadIn 0 s).toNat
      + 256 * (if s.inSize.toNat < 2 then 0 else memReadIn 1 s : Byte).toNat)) := by
  have hw (b0 b1 : Byte) : b0.toNat + 256 * b1.toNat < 2 ^ 16 := by omega
  simp only [nextInstr, hq, peekHeader, if_neg (Nat.not_lt.2 h)]
  rw [← fetched_zhdr16 (hw _ _), apply_ite BitVec.toNat]
  rfl

/-- With byte 0 there, the row of a header word makes the other four tests of 42_deflate_framing.md R170 in order. -/
theorem exec_decodeZhdr (b0 b1 : Byte) {s : State} (h : 1 ≤ s.inSize.toNat) :
    exec (decodeZhdr (b0.toNat + 256 * b1.toNat)) s = .next (
      if b0.toNat % 16 ≠ 8 then takeError .unsupportedCompressionMethod s
      else if 7 < b0.toNat / 16 then takeError .unsupportedValue s
      else if s.inSize.toNat < 2 then takeError .outOfData s
      else if b1.toNat / 32 % 2 = 1 then takeError .unsupportedValue s
      else { brInit 2 s with outOffset := 0, seqState := .expectBlockHeader }) := by
  have hcm : bits (b0.toNat + 256 * b1.toNat) 0 4 ≠ 8 ↔ b0.toNat % 16 ≠ 8 := by
    simp only [ne_eq, bits_eq_iff, BitVec.reduceToNat]; omega
  have hcinfo : bits (b0.toNat + 256 * b1.toNat) 7 1 = 1 ↔ 7 < b0.toNat / 16 := by
    simp only [bits_eq_iff, BitVec.reduceToNat]; omega
  have hfdict : bits (b0.toNat + 256 * b1.toNat) 13 1 = 1 ↔ b1.toNat / 32 % 2 = 1 := by
    simp only [bits_eq_iff, BitVec.reduceToNat]; omega
  have hbyte0 : ¬ s.inSize.toNat < 1 := Nat.not_lt.2 h
  simp only [decodeZhdr, hcm, hcinfo, hfdict]
  split
  · exact if_neg hbyte0
  · split
    · exact if_neg hbyte0
    · by_cases hbyte1 : s.inSize.toNat < 2
      · rw [if_pos hbyte1]
        split <;> exact if_pos hbyte1
      · rw [if_neg hbyte1]
        split <;> exact if_neg hbyte1

/-- Settles O39: the fetch tests for byte 0, and the row of the word (`nextInstr_header`) makes the other tests
(`exec_decodeZhdr`). -/
theorem headerStepTestsInOrder : Obligations.HeaderStepTestsInOrder := by
  intro s hq hin
  have hblock : s.inHuffmanBlock = false := by simp [State.inHuffmanBlock, hq]
  have hstep : step s = engineStep s := by simp only [step, nextStep, hin]
  rw [hstep]
  by_cases h : s.inSize.toNat < 1
  · simp only [engineStep, nextInstr, hq, peekHeader, if_pos h]
  · rw [if_neg h, engineStep, nextInstr_header hq (Nat.not_lt.1 h)]
    simp only [exec_decodeZhdr _ _ (Nat.not_lt.1 h), mapNext, afterRow_outside_block hblock]
    by_cases hbyte1 : s.inSize.toNat < 2
    · simp only [if_pos hbyte1]
    · simp only [if_neg hbyte1]
      rfl

/-! ## The block headers -/

/-- Settles O40: the four rows share their read (`getValue_consumed`) and their flags. -/
theorem blockHeaders : Obligations.BlockHeaders := by
  intro last s h hb
  obtain ⟨r, hr, hc⟩ := getValue_consumed h (by decide) hb
  have hflags (type : BitVec 2) : blockHeader last type s = .ok () (setBlockFlags last type r) := by
    rw [blockHeader, hr, Res.bind_ok]
  refine ⟨r, hc, ?_⟩
  simp only [exec, execBhdrStored, execBhdrFixed, execBhdrDynamic, execBhdrReserved, hflags, Res.outcomeWith_ok,
    Res.bind_ok, Res.outcome_raised]
  exact ⟨rfl, rfl, rfl, rfl⟩

end Sys2Proof.Machine
end

section
/-! The stored block (42_deflate_framing.md R176). -/

namespace Sys2Proof.Machine

section Stored
variable {len nlen : BitVec 16} {s : State}

/-! ## The reader at a byte boundary -/

theorem ReaderBounds.bitBuffer_eq_zero (h : ReaderBounds s) (h0 : s.bitBufferSize.toNat = 0) : s.bitBuffer = 0 := by
  have hclear := h.clear
  rw [h0, Nat.pow_zero, Nat.lt_one_iff] at hclear
  exact BitVec.eq_of_toNat_eq hclear

/-- Between the operations of the sequencer a reader at a byte boundary has an empty buffer (40_bit_stream_reader.md
R137). -/
theorem Consumed.eq_atByte {n b : Nat} {t : State} (h : Consumed n s t) (hb : s.pos + n = 8 * b) : t = atByte b s := by
  have hend := h.ok.inv.pos_add_size
  have hfew := h.ok.few
  have hpos := h.pos
  have hsize : t.bitBufferSize.toNat = 0 := by omega
  have hoff : t.byteStreamOffset.toNat = b := by omega
  have hempty : t.bitBufferSize = 0 := BitVec.eq_of_toNat_eq hsize
  rw [h.same, atByte, h.ok.inv.bitBuffer_eq_zero hsize, hempty, ← hoff, BitVec.ofNat_toNat, BitVec.setWidth_eq]

/-! ## The fields -/

/-- What STORED does once its two fields stand in STORED_LEN and STORED_NLEN (`exec_stored`): the three tests in order,
the copy, and the end of the block (42_deflate_framing.md R176). -/
def storedData (s : State) : Res Unit :=
  if s.storedLen ^^^ s.storedNlen ≠ 0xffff then .raised .valueMismatch s
  else if s.outCapacity.toNat < s.outOffset.toNat + s.storedLen.toNat then .raised .insufficientSpace s
  else if brRemainingBytes s < s.storedLen.toNat then .raised .insufficientSpace s
  else (storedLoop s.storedLen.toNat s).bind fun _ t => .ok () (endOfBlock t)

theorem exec_stored (len nlen : BitVec 16) (s : State) : exec (.stored len nlen) s =
    ((brGetValue 16 (brFlush s)).bind fun _ s1 => (brGetValue 16 { s1 with storedLen := len }).bind fun _ s2 =>
      storedData { s2 with storedNlen := nlen }).outcome := rfl

/-- Fields that are not all there raise; STORED_LEN may have been written. -/
theorem exec_stored_short (h : ReaderOk s) (hb : 8 * s.byteStreamSize.toNat < alignUp s.pos + 32) :
    ∃ r, exec (.stored len nlen) s = .next (takeError .outOfData r) ∧
      r = { s with
        bitBuffer := r.bitBuffer, bitBufferSize := r.bitBufferSize, byteStreamOffset := r.byteStreamOffset
        storedLen := r.storedLen } := by
  obtain ⟨hflush, hpos, -, -⟩ := flush_spec h
  rw [exec_stored]
  by_cases hlen : Available 16 (brFlush s)
  · obtain ⟨s1, hlen1, hc⟩ := getValue_consumed hflush.ok (by decide) hlen
    have hok : ReaderOk { s1 with storedLen := len } := hc.ok.congr rfl rfl rfl rfl rfl rfl
    have hnlen : ¬ Available 16 { s1 with storedLen := len } := by
      show ¬ s1.pos + 16 ≤ 8 * s1.byteStreamSize.toNat
      rw [hc.pos, hc.streamSize, hpos, hflush.streamSize]
      omega
    refine ⟨{ s1 with storedLen := len }, ?_, ?_⟩
    · rw [hlen1, Res.bind_ok, getValue_short hok.inv (by decide) hnlen, Res.bind_raised, Res.outcome_raised]
    · rw [hflush.same.trans hc.same]
  · refine ⟨brFlush s, ?_, hflush.same⟩
    rw [getValue_short hflush.ok.inv (by decide) hlen, Res.bind_raised, Res.outcome_raised]

/-- `s` after the PAD and the two fields of a stored block, which stand in their registers. -/
def afterStoredFields (len nlen : BitVec 16) (s : State) : State :=
  { atByte (alignUp s.pos / 8 + 4) s with storedLen := len, storedNlen := nlen }

theorem atByte_of_sameButReader {t : State} (h : SameButReader s t) (b : Nat) : atByte b t = atByte b s := by
  rw [h]; rfl

/-- The fields of a stored block that are there are consumed, and leave the reader at a byte boundary. -/
theorem exec_stored_fields (h : ReaderOk s) (hb : alignUp s.pos + 32 ≤ 8 * s.byteStreamSize.toNat) :
    exec (.stored len nlen) s = (storedData (afterStoredFields len nlen s)).outcome ∧
      ReaderOk (afterStoredFields len nlen s) := by
  obtain ⟨hflush, hpos, -, halign⟩ := flush_spec h
  have hlen : Available 16 (brFlush s) := by
    simp only [Available, hpos, hflush.streamSize]; omega
  obtain ⟨s1, hlen1, hc1⟩ := getValue_consumed hflush.ok (by decide) hlen
  have hpos1 : s1.pos = alignUp s.pos + 16 := by rw [hc1.pos, hpos]
  have hsame1 : SameButReader s s1 := hflush.same.trans hc1.same
  have hok1 : ReaderOk { s1 with storedLen := len } := hc1.ok.congr rfl rfl rfl rfl rfl rfl
  have hnlen : Available 16 { s1 with storedLen := len } := by
    show s1.pos + 16 ≤ 8 * s1.byteStreamSize.toNat
    rw [hpos1, hsame1.streamSize]; omega
  obtain ⟨s2, hnlen2, hc2⟩ := getValue_consumed hok1 (by decide) hnlen
  have hbyte : s1.pos + 16 = 8 * (alignUp s.pos / 8 + 4) := by omega
  have hs2 : s2 = { atByte (alignUp s.pos / 8 + 4) s1 with storedLen := len } := hc2.eq_atByte hbyte
  have hq : { s2 with storedNlen := nlen } = afterStoredFields len nlen s := by
    rw [hs2, atByte_of_sameButReader hsame1]; rfl
  rw [exec_stored, hlen1, Res.bind_ok, hnlen2, Res.bind_ok, hq]
  exact ⟨rfl, hq ▸ hc2.ok.congr rfl rfl rfl rfl rfl rfl⟩

/-! ## The tests and the copy -/

theorem storedData_mismatch (hcheck : s.storedLen ^^^ s.storedNlen ≠ 0xffff) :
    storedData s = .raised .valueMismatch s := if_pos hcheck

theorem remainingBytes_empty (h0 : s.bitBufferSize.toNat = 0) : brRemainingBytes s = bytesLeft s := by
  rw [brRemainingBytes, h0, Nat.zero_div, Nat.zero_add]

/-- Too little room and too little input are the same error. -/
theorem storedData_noSpace (h0 : s.bitBufferSize.toNat = 0) (hcheck : s.storedLen ^^^ s.storedNlen = 0xffff)
    (hshort : s.outCapacity.toNat < s.outOffset.toNat + s.storedLen.toNat ∨ bytesLeft s < s.storedLen.toNat) :
    storedData s = .raised .insufficientSpace s := by
  rw [storedData, if_neg (not_not_intro hcheck), remainingBytes_empty h0]
  by_cases hout : s.outCapacity.toNat < s.outOffset.toNat + s.storedLen.toNat
  · rw [if_pos hout]
  · rw [if_neg hout, if_pos (hshort.resolve_left hout)]

/-- A stored block that fits copies its bytes and ends. -/
theorem storedData_copied (h : ReaderOk s) (h0 : s.bitBufferSize.toNat = 0)
    (hcheck : s.storedLen ^^^ s.storedNlen = 0xffff)
    (hout : s.outOffset.toNat + s.storedLen.toNat ≤ s.outCapacity.toNat) (hin : s.storedLen.toNat ≤ bytesLeft s) :
    ∃ t, storedData s = .ok () (endOfBlock t) ∧
      t = { s with
        byteStreamOffset := BitVec.ofNat 32 (s.byteStreamOffset.toNat + s.storedLen.toNat)
        outMem := t.outMem, outOffset := BitVec.ofNat 32 (s.outOffset.toNat + s.storedLen.toNat) } ∧
      (∀ i, i < s.storedLen.toNat →
        memReadOut (s.outOffset.toNat + i) t = memReadIn (s.byteStreamOffset.toNat + i) s) ∧
      OutKept s.outOffset.toNat s.storedLen.toNat s t := by
  have hcapacity := s.outCapacity.isLt
  have havail : Available (8 * s.storedLen.toNat) s := by
    have := bitsLeft_eq h.inv
    simp only [bitsLeft] at this
    simp only [Available]; omega
  obtain ⟨t, ht, hok, ht0, hoff, hout', hsame, hbytes, hkept⟩ :=
    storedLoop_spec s.storedLen.toNat h h0 havail (by omega)
  refine ⟨t, ?_, ?_, hbytes, hkept⟩
  · rw [storedData, if_neg (not_not_intro hcheck), if_neg (Nat.not_lt.2 hout), remainingBytes_empty h0,
      if_neg (Nat.not_lt.2 hin), ht, Res.bind_ok]
  · have hbuf : t.bitBuffer = s.bitBuffer := by
      rw [hok.inv.bitBuffer_eq_zero ht0, h.inv.bitBuffer_eq_zero h0]
    have hsize : t.bitBufferSize = s.bitBufferSize := BitVec.eq_of_toNat_eq (ht0.trans h0.symm)
    rw [← hoff, ← hout', BitVec.ofNat_toNat, BitVec.ofNat_toNat, BitVec.setWidth_eq, BitVec.setWidth_eq]
    rw [hbuf, hsize] at hsame
    exact hsame

end Stored

/-- Settles O41: the fields are there or not (`exec_stored_fields`, `exec_stored_short`), then a clause per outcome of
what follows them (`storedData`). -/
theorem storedBlock : Obligations.StoredBlock := by
  rintro len nlen s p h rfl
  refine ⟨exec_stored_short h, fun hb => ⟨afterStoredFields len nlen s, rfl, ?_⟩⟩
  obtain ⟨hexec, hok⟩ := exec_stored_fields (len := len) (nlen := nlen) h hb
  have h0 : (afterStoredFields len nlen s).bitBufferSize.toNat = 0 := rfl
  have hoff : (afterStoredFields len nlen s).byteStreamOffset.toNat = alignUp s.pos / 8 + 4 := by
    have := s.byteStreamSize.isLt
    exact Nat.mod_eq_of_lt (by omega)
  have hleft : bytesLeft (afterStoredFields len nlen s) = s.byteStreamSize.toNat - (alignUp s.pos / 8 + 4) := by
    rw [bytesLeft, hoff]; rfl
  have haligned : alignUp s.pos % 8 = 0 := Nat.mul_mod_left _ 8
  rw [hexec]
  refine ⟨fun hcheck => ?_, fun hcheck hshort => ?_, fun hcheck hout hin => ?_⟩
  · rw [storedData_mismatch hcheck, Res.outcome_raised]
  · rw [storedData_noSpace h0 hcheck (hshort.imp_right fun hin => ?_), Res.outcome_raised]
    show _ < len.toNat
    omega
  · obtain ⟨t, ht, hsame, hbytes, hkept⟩ := storedData_copied hok h0 hcheck hout (by
      show len.toNat ≤ _
      omega)
    rw [hoff] at hsame hbytes
    exact ⟨t, by rw [ht, Res.outcome_ok], hsame, hbytes, hkept⟩

end Sys2Proof.Machine
end

section
/-! The tree description of a dynamic block (42_deflate_framing.md R181 to R188). -/

namespace Sys2Proof.Machine

/-! ## DYNHDR -/

/-- Settles O42: the 14 bits are consumed (`getValue_consumed`) and the counts are those of R119. -/
theorem dynhdrSetsCounts : Obligations.DynhdrSetsCounts := by
  intro hlit hdist hclen s h hb
  obtain ⟨r, hr, hc⟩ := getValue_consumed h (by decide) hb
  refine ⟨r, _, hc, rfl, ?_⟩
  show execDynhdr hlit hdist hclen s = _
  rw [execDynhdr, hr, Res.bind_ok]
  simp only [literalCodesOf_toNat, distanceCodesOf_toNat]
  split <;> rfl

/-! ## PRELEN -/

/-- The entry CL_ORDER names is the length, and the first length clears the others (42_deflate_framing.md R182). -/
theorem storePreLength_getElem (i : Nat) (length : BitVec 3) (s : State) (j : Nat) (hj : j < 19) :
    (storePreLength i length s).preLengths[j]
      = if j = clOrderAt i then length else if i = 0 then 0 else s.preLengths[j] := by
  simp only [storePreLength, Vector.getElem_setIfInBounds, eq_comm (a := clOrderAt i)]
  split
  · rfl
  · split
    · exact Vector.getElem_replicate ..
    · rfl

/-- Settles O43: the entries are those of `storePreLength_getElem`; the last length builds the tree (`htBuild_ok`). -/
theorem prelenStoresInOrder : Obligations.PrelenStoresInOrder := by
  intro length i s h hb hp hi hmax
  obtain ⟨r, hr, hc⟩ := getValue_consumed h (by decide) hb
  have hplace : r.place = .prelen i := by rw [hc.same]; exact hp
  have hcount : r.numCodeLengthCodes = s.numCodeLengthCodes := by rw [hc.same]
  have hlengths : r.preLengths = s.preLengths := by rw [hc.same]
  refine ⟨r, (storePreLength i length r).preLengths, hc, fun j hj => ?_, ?_⟩
  · rw [storePreLength_getElem, hlengths]
  · show execPrelen length s = _
    rw [execPrelen, hr, Res.bind_ok, hplace, ← hcount]
    show Res.outcome (if i + 1 < r.numCodeLengthCodes.toNat then _ else _) = _
    split
    · rfl
    · rw [Place.prelenIndex, htBuild_ok _ (preCodeLengths_le _) (by rw [preCodeLengths_length]; decide)]
      rfl

/-! ## CL.LEN and the repeats -/

theorem codeLengthLoop_eq_goto (s : State) :
    codeLengthLoop s = goto (if s.clIndex.toNat < s.totalLengths then .clCode else .dyntrees) s := by
  unfold codeLengthLoop; split <;> rfl

/-- Lengths appended up to the total, and what the loop does then (42_deflate_framing.md R183). -/
theorem codeLengthLoop_appendLengths (count : Nat) (v : BitVec 4) {s : State}
    (hc : s.clIndex.toNat + count ≤ s.totalLengths) (ht : s.totalLengths ≤ 316) :
    codeLengthLoop (appendLengths count v s) = { s with
        codeLengths := (codeLengthLoop (appendLengths count v s)).codeLengths
        clIndex := BitVec.ofNat 9 (s.clIndex.toNat + count)
        place := if s.clIndex.toNat + count < s.totalLengths then .clCode else .dyntrees } ∧
      ∀ (j : Nat) (h : j < 316), (codeLengthLoop (appendLengths count v s)).codeLengths[j]
        = if s.clIndex.toNat ≤ j ∧ j < s.clIndex.toNat + count then v else s.codeLengths[j] := by
  obtain ⟨hidx, hsame, hentry⟩ := appendLengths_spec count v (hc.trans ht)
  have htotal : (appendLengths count v s).totalLengths = s.totalLengths := by rw [hsame]; rfl
  rw [codeLengthLoop_eq_goto, htotal, hidx]
  refine ⟨?_, hentry⟩
  rw [← hidx, BitVec.ofNat_toNat, BitVec.setWidth_eq]
  exact congrArg (goto _) hsame

/-- Settles O44: one length is appended. -/
theorem clLenAppends : Obligations.ClLenAppends := by
  intro length s hidx ht
  obtain ⟨hsame, hentry⟩ := codeLengthLoop_appendLengths 1 length hidx ht
  refine ⟨_, rfl, hsame, fun j hj => (hentry j hj).trans ?_⟩
  simp only [Nat.lt_succ_iff, Nat.le_antisymm_iff, and_comm]

/-- A repeat makes the overflow test and appends its lengths (42_deflate_framing.md R185). -/
theorem repeatLength_repeated (count : Nat) (v : BitVec 4) {r : State} (ht : r.totalLengths ≤ 316) :
    Repeated count v r (repeatLength count v r).outcome := by
  refine ⟨fun hover => ?_, fun hfits => ?_⟩
  · rw [repeatLength, if_pos hover, Res.outcome_raised]
  · rw [repeatLength, if_neg (Nat.not_lt.2 hfits), Res.outcome_ok]
    exact ⟨_, rfl, codeLengthLoop_appendLengths count v hfits ht⟩

/-- The rows of a repeat: the extra bits, and as many lengths as they say. -/
theorem repeatRow_repeated {n : Nat} {s : State} (h : ReaderOk s) (ht : s.totalLengths ≤ 316) (hn : n ≤ 25)
    (hb : Available n s) (count : Nat → Nat) (v : State → BitVec 4) :
    ∃ r, Consumed n s r ∧ Repeated (count (fieldAt s s.pos n)) (v r) r
      ((brGetValue n s).bind fun e u => repeatLength (count e) (v u) u).outcome := by
  obtain ⟨r, hr, hc⟩ := getValue_consumed h hn hb
  refine ⟨r, hc, ?_⟩
  rw [hr, Res.bind_ok]
  exact repeatLength_repeated _ _ (by rw [hc.same]; exact ht)

/-- Settles O45: CL.REP tests for a previous length first; then the three rows are alike (`repeatRow_repeated`). -/
theorem repeatsAppend : Obligations.RepeatsAppend := by
  intro s hle h ht
  refine ⟨fun h0 => ?_, fun h0 hb => ?_, fun hb => repeatRow_repeated h ht (by decide) hb (3 + ·) fun _ => 0,
    fun hb => repeatRow_repeated h ht (by decide) hb (11 + ·) fun _ => 0⟩
  · show Res.outcome (if s.clIndex = 0 then _ else _) = _
    rw [if_pos (BitVec.eq_of_toNat_eq h0), Res.outcome_raised]
  · obtain ⟨r, hc, hrep⟩ := repeatRow_repeated h ht (by decide) hb (3 + ·) previousLength
    have hprev : previousLength r = s.codeLengths[s.clIndex.toNat - 1] := by
      rw [previousLength, hc.same]
      exact congrArg (Option.getD · 0) (Vector.getElem?_eq_getElem _)
    refine ⟨r, hc, ?_⟩
    show Repeated _ _ r (Res.outcome (if s.clIndex = 0 then _ else _))
    rw [if_neg (fun h => h0 (by rw [h]; rfl)), ← hprev]
    exact hrep

/-! ## DYNTREES -/

theorem takeFreeLengths_eq (s : State) : takeFreeLengths s =
    { s with freeCount := if s.totalLengths ≤ 316 then s.freeCount else s.freeCount + 1 } := by
  by_cases h : s.totalLengths ≤ 316
  · rw [takeFreeLengths, if_neg (Nat.not_lt.2 h), if_pos h]
  · rw [takeFreeLengths, if_pos (Nat.not_le.1 h), if_neg h]; rfl

/-- An entry of CODE_LENGTHS, or the free value past the 316 (log 36). -/
theorem codeLengthAt_eq (s : State) (j : Nat) : codeLengthAt s j =
    if h : j < 316 then s.codeLengths[j] else Config.freeLength s.freeCount j := by
  rw [codeLengthAt]
  split
  · rw [Vector.getElem?_eq_getElem ‹_›, Option.getD_some]
  · rw [Vector.getElem?_eq_none (Nat.not_lt.1 ‹_›), Option.getD_none]

/-- Where symbol 256 has a code, both trees are built: neither count can reach 512. -/
theorem exec_dyntrees (s : State) : exec .dyntrees s = .next (
    if s.codeLengths[256] = 0 then takeError .missingEndOfBlockCode s
    else { s with
      dynLitTree := buildTree (codeLengthsFrom 0 s.numLiteralCodes.toNat s)
      dynDistTree := buildTree (codeLengthsFrom s.numLiteralCodes.toNat s.numDistanceCodes.toNat s)
      place := .litCode
      freeCount := if s.totalLengths ≤ 316 then s.freeCount else s.freeCount + 1 }) := by
  have hlit := s.numLiteralCodes.isLt
  have hdist (T : TreeStore) : (s.setTree .dynLit T).numDistanceCodes.toNat < 512 :=
    Nat.lt_trans s.numDistanceCodes.isLt (by decide)
  show execDyntrees s = _
  rw [execDyntrees]
  split
  · rfl
  · rw [literalLengths, htBuild_codeLengthsFrom _ _ hlit, Res.bind_ok, distanceLengths,
      htBuild_codeLengthsFrom _ _ (hdist _), Res.bind_ok, takeFreeLengths_eq]
    rfl

/-- Settles O46: the entries are those DYNTREES reads (`codeLengthAt_eq`), and it builds both trees of them
(`exec_dyntrees`). -/
theorem dyntreesBuildsBoth : Obligations.DyntreesBuildsBoth := by
  intro s lit dist entry hentry hlit hdist
  have hread (j : Nat) : entry j = codeLengthAt s j := (hentry j).trans (codeLengthAt_eq s j).symm
  simp only [exec_dyntrees, codeLengthsFrom, Nat.zero_add, hlit, hdist, hread]

end Sys2Proof.Machine
end

section
/-! The LZ77 expander (43_lz77_expander.md R202 to R216): literals, the end of a block, the reserved symbols, length and
distance elements, and the copy of a back-reference. -/

namespace Sys2Proof.Machine

/-! ## LIT, EOB and the reserved symbols -/

theorem outOffset_succ (s : State) : s.outOffset + 1 = BitVec.ofNat 32 (s.outOffset.toNat + 1) := by
  rw [BitVec.ofNat_add, BitVec.ofNat_toNat, BitVec.setWidth_eq]; rfl

/-- Settles O47: after the one test the row is a `putOut`, which writes at OUT_OFFSET and moves it on by 1. -/
theorem litWritesOneByte : Obligations.LitWritesOneByte := by
  intro b s
  refine ⟨fun hfull => if_pos hfull, fun hroom =>
    ⟨goto .litCode (putOut b s), if_neg (Nat.not_le.2 hroom), ?_, memReadOut_putOut_self b s, fun a ha => ?_⟩⟩
  · rw [← outOffset_succ]; rfl
  · exact memReadOut_putOut_ne (by omega) b

/-- Settles O48: `endOfBlock` with the trees kept or discarded. -/
theorem eobEndsBlock : Obligations.EobEndsBlock := by
  intro s
  refine ⟨endOfBlock s, rfl, ?_⟩
  unfold endOfBlock
  by_cases hdynamic : s.blockType = 2
  · simp only [if_pos hdynamic, bne_eq_false_iff_eq.2 hdynamic, Bool.and_false]
    rfl
  · simp only [if_neg hdynamic, bne_iff_ne.2 hdynamic, Bool.and_true]

/-- Settles O52: the four rows are the error. -/
theorem reservedSymbolsRaise : Obligations.ReservedSymbolsRaise := fun _ => ⟨rfl, rfl, rfl, rfl⟩

/-! ## Length and distance elements -/

/-- An element of a base and `n` extra bits, whose values lie between `lo` and `hi`: OutOfData where the bits are not
there, and else what it does with the value. -/
theorem extraBits_element {n base lo hi : Nat} {s : State} (h : ReaderOk s) (hn : n ≤ 25) (hlo : lo ≤ base)
    (hhi : base + 2 ^ n ≤ hi + 1) (f : Nat → State → State) :
    (¬ Available n s →
      ((brGetValue n s).outcomeWith fun e => f (base + e)) = .next (takeError .outOfData s)) ∧
    (Available n s →
      ∃ r v, Consumed n s r ∧ v = base + fieldAt s s.pos n ∧ lo ≤ v ∧ v ≤ hi ∧
        ((brGetValue n s).outcomeWith fun e => f (base + e)) = .next (f v r)) := by
  refine ⟨fun hb => ?_, fun hb => ?_⟩
  · rw [getValue_short h.inv (by omega) hb, Res.outcomeWith_raised]
  · obtain ⟨r, hr, hc⟩ := getValue_consumed h hn hb
    have hfield := fieldAt_lt s s.pos n
    refine ⟨r, _, hc, rfl, by omega, by omega, ?_⟩
    rw [hr, Res.outcomeWith_ok]

theorem lenIndex_lt {i : Instr} {k : Nat} (h : i.lenIndex = some k) : k < 29 := by
  cases i <;> cases h <;> decide

theorem distIndex_lt {i : Instr} {j : Nat} (h : i.distIndex = some j) : j < 30 := by
  cases i <;> cases h <;> decide

/-- Settles O49: LEN.k is the length element of its index, and the table keeps LENGTH in its range (`len_range`). -/
theorem lengthRows : Obligations.LengthRows := by
  intro i k s hi h
  obtain ⟨hextra, hlo, hhi⟩ := len_range k (lenIndex_lt hi)
  rw [exec_of_lenIndex hi]
  exact extraBits_element h hextra hlo hhi fun v u => goto .distCode { u with length := BitVec.ofNat 9 v }

/-- Settles O50: DIST.j is the distance element of its symbol, and the table keeps DISTANCE in its range
(`dist_range`). -/
theorem distanceRows : Obligations.DistanceRows := by
  intro i j s hi h
  obtain ⟨hextra, hlo, hhi⟩ := dist_range j (distIndex_lt hi)
  rw [exec_of_distIndex hi]
  exact extraBits_element h hextra hlo hhi fun v u => goto .matchCopy { u with distance := BitVec.ofNat 16 v }

/-! ## The copy of a back-reference -/

section Copy
variable {k d : Nat} {s : State}

/-- Each byte of the copy is the byte `d` before it (`copyLoop_spec`), so the bytes repeat the `d` bytes before the copy
(43_lz77_expander.md R212): an induction from each byte to the one `d` back. -/
theorem memReadOut_copyLoop (h1 : 1 ≤ d) (hd : d ≤ s.outOffset.toNat) (hk : s.outOffset.toNat + k < 2 ^ 32) (i : Nat)
    (hi : i < k) :
    memReadOut (s.outOffset.toNat + i) (copyLoop k d s) = memReadOut (s.outOffset.toNat - d + i % d) s := by
  obtain ⟨-, hkept, hback⟩ := copyLoop_spec k h1 hd hk
  induction i using Nat.strongRecOn with
  | ind i ih =>
    rw [hback i hi]
    by_cases hfirst : i < d
    · rw [Nat.mod_eq_of_lt hfirst, hkept _ (by omega)]
      congr 1; omega
    · rw [Nat.mod_eq_sub_mod (Nat.not_lt.1 hfirst), ← ih (i - d) (by omega) (by omega)]
      congr 1; omega

theorem copyLoop_copied (h1 : 1 ≤ d) (hd : d ≤ s.outOffset.toNat) (hk : s.outOffset.toNat + k < 2 ^ 32) :
    Copied k d s (copyLoop k d s) := by
  obtain ⟨hoff, hkept, -⟩ := copyLoop_spec k h1 hd hk
  refine ⟨?_, memReadOut_copyLoop h1 hd hk, hkept⟩
  rw [← hoff, BitVec.ofNat_toNat, BitVec.setWidth_eq]
  exact copyLoop_sameButOut k d s

theorem freeCopy_copiedFree (hk : s.outOffset.toNat + k < 2 ^ 32) : CopiedFree k s (freeCopy k s) :=
  have ⟨hsame, hkept⟩ := freeCopy_spec k hk
  ⟨hsame, hkept⟩

end Copy

theorem Res.outcome_eq_outcomeWith (x : Res Unit) : x.outcome = x.outcomeWith fun _ t => t := by
  cases x <;> rfl

/-- A row that is a back-reference, and then `f`: the two checks in order, then the copy (43_lz77_expander.md R210,
R212). -/
theorem backReference_checks_then_copies {length : BitVec 9} {distance : BitVec 16} {s : State} {f : State → State}
    {x : Host.Outcome State Fault Refusal}
    (hx : x = (backReference length.toNat distance.toNat s).outcomeWith fun _ => f) :
    (s.outOffset.toNat < distance.toNat → x = .next (takeError .valueOutOfBounds s)) ∧
    (distance.toNat ≤ s.outOffset.toNat → s.outCapacity.toNat < s.outOffset.toNat + length.toNat →
      x = .next (takeError .insufficientSpace s)) ∧
    (distance.toNat ≤ s.outOffset.toNat → s.outOffset.toNat + length.toNat ≤ s.outCapacity.toNat →
      (distance = 0 → ∃ t, x = .next (f t) ∧ CopiedFree length.toNat s t) ∧
      (distance ≠ 0 → ∃ t, x = .next (f t) ∧ Copied length.toNat distance.toNat s t)) := by
  rw [hx, backReference]
  refine ⟨fun hfar => ?_, fun hd hfull => ?_, fun hd hroom => ?_⟩
  · rw [if_pos hfar, Res.outcomeWith_raised]
  · rw [if_neg (Nat.not_lt.2 hd), if_pos hfull, Res.outcomeWith_raised]
  · have hfits := hroom.trans_lt s.outCapacity.isLt
    rw [if_neg (Nat.not_lt.2 hd), if_neg (Nat.not_lt.2 hroom)]
    refine ⟨fun hzero => ⟨_, ?_, freeCopy_copiedFree hfits⟩, fun hne => ?_⟩
    · have h0 : distance.toNat = 0 := congrArg BitVec.toNat hzero
      rw [if_pos h0, Res.outcomeWith_ok]
    · have hpos : distance.toNat ≠ 0 := fun h => hne (BitVec.eq_of_toNat_eq h)
      refine ⟨_, ?_, copyLoop_copied (Nat.one_le_iff_ne_zero.2 hpos) hd hfits⟩
      rw [if_neg hpos, Res.outcomeWith_ok]

/-- Settles O53: MATCH is the back-reference of LENGTH and DISTANCE, and then the next symbol. -/
theorem matchChecksThenCopies : Obligations.MatchChecksThenCopies := fun _ =>
  backReference_checks_then_copies (f := goto .litCode) rfl

/-- Settles O54: LZ.COPY is the back-reference of its operands. -/
theorem lzCopyCopies : Obligations.LzCopyCopies := fun _ _ _ =>
  backReference_checks_then_copies (f := fun t => t) (Res.outcome_eq_outcomeWith _)

end Sys2Proof.Machine
end

section
/-! What an operation completes with, in every state: what of the sequencer it keeps, and, where the reader's invariants
hold, that it is not refused and how many bits of the input it consumes. -/

namespace Sys2Proof.Machine

/-! ## What an operation completes with -/

/-- The operation completes with what satisfies `Q`, or raises; where `T` holds it is not refused. -/
def Res.Meets {α : Type} (T : Prop) (Q : α → State → Prop) : Res α → Prop
  | .ok a s => Q a s
  | .raised _ _ => True
  | .refused _ => ¬T

/-- The next state is in ERROR or satisfies `P`; where `T` holds there is one. -/
inductive OutcomeMeets (T : Prop) (P : State → Prop) : Host.Outcome State Fault Refusal → Prop
  | error {t : State} (h : t.seqState = .error) : OutcomeMeets T P (.next t)
  | next {t : State} (h : P t) : OutcomeMeets T P (.next t)
  | fault (h : ¬T) (r : Fault) : OutcomeMeets T P (.fault r)
  | refused (h : ¬T) (r : Refusal) : OutcomeMeets T P (.refused r)

section Meets
variable {α β : Type} {T : Prop} {P : State → Prop} {Q : α → State → Prop}

theorem Res.Meets.bind {R : β → State → Prop} {x : Res α} {f : α → State → Res β} (h : x.Meets T Q)
    (hf : ∀ a s, Q a s → (f a s).Meets T R) : (x.bind f).Meets T R := by
  cases x with
  | ok a s => exact hf a s h
  | raised e s => trivial
  | refused r => exact h

theorem Res.Meets.imp {R : α → State → Prop} {x : Res α} (h : x.Meets T Q) (hq : ∀ a s, Q a s → R a s) :
    x.Meets T R := by
  cases x with
  | ok a s => exact hq a s h
  | raised e s => trivial
  | refused r => exact h

theorem Res.Meets.outcome {x : Res Unit} (h : x.Meets T fun _ => P) : OutcomeMeets T P x.outcome := by
  cases x with
  | ok a s => exact .next h
  | raised e s => exact .error rfl
  | refused r => exact .refused h r

theorem Res.Meets.outcomeWith {x : Res α} {f : α → State → State} (h : x.Meets T Q) (hf : ∀ a s, Q a s → P (f a s)) :
    OutcomeMeets T P (x.outcomeWith f) :=
  Res.Meets.outcome (h.bind fun a s hq => (hf a s hq : Res.Meets T (fun _ => P) (.ok () (f a s))))

theorem OutcomeMeets.imp {R : State → Prop} {x : Host.Outcome State Fault Refusal} (h : OutcomeMeets T P x)
    (hp : ∀ t, P t → R t) : OutcomeMeets T R x := by
  cases h with
  | error h => exact .error h
  | next h => exact .next (hp _ h)
  | fault h r => exact .fault h r
  | refused h r => exact .refused h r

theorem OutcomeMeets.next_or {x : Host.Outcome State Fault Refusal} (h : OutcomeMeets T P x) {t : State}
    (ht : x = .next t) : t.seqState = .error ∨ P t := by
  cases h <;> cases ht
  · exact .inl ‹_›
  · exact .inr ‹_›

theorem OutcomeMeets.exists_next {x : Host.Outcome State Fault Refusal} (h : OutcomeMeets T P x) (hT : T) :
    ∃ t, x = .next t := by
  cases h with
  | error h => exact ⟨_, rfl⟩
  | next h => exact ⟨_, rfl⟩
  | fault h r => exact absurd hT h
  | refused h r => exact absurd hT h

end Meets

/-! ## What the shared operations keep -/

/-- The registers of the sequencer and the host that no shared operation writes. -/
def State.controlView (s : State) : SeqState × Bool × BitVec 4 × Word :=
  (s.seqState, s.lastBlockFlag, s.errorCode, s.outCount)

/-- These, and what the bit reader's invariants are about. -/
def State.courseView (s : State) :
    (SeqState × Bool × BitVec 4 × Word) × (BitVec 32 × BitVec 6 × Word × Word) × Memory × Word :=
  (s.controlView, (s.bitBuffer, s.bitBufferSize, s.byteStreamOffset, s.byteStreamSize), s.inMem, s.inSize)

/-- From `s` to `u` the sequencer has stood still; where `T` holds, `n` bits of the input have been consumed. -/
structure Reads (T : Prop) (n : Nat) (s u : State) : Prop where
  control : u.controlView = s.controlView
  reader : T → ReaderOk u ∧ u.pos = s.pos + n ∧ u.byteStreamSize = s.byteStreamSize

section Shared
variable {T : Prop} {m n : Nat} {s t u : State}

theorem Reads.refl (hT : T → ReaderOk s) : Reads T 0 s s := ⟨rfl, fun h => ⟨hT h, rfl, rfl⟩⟩

theorem Reads.trans (h1 : Reads T m s t) (h2 : Reads T n t u) : Reads T (m + n) s u :=
  ⟨h2.control.trans h1.control, fun h =>
    have ⟨_, hp1, hs1⟩ := h1.reader h
    have ⟨hok, hp2, hs2⟩ := h2.reader h
    ⟨hok, by rw [hp2, hp1, Nat.add_assoc], hs2.trans hs1⟩⟩

theorem Reads.congr (h : Reads T n s u) (hv : t.courseView = u.courseView := by rfl) : Reads T n s t := by
  simp only [State.courseView, Prod.mk.injEq] at hv
  obtain ⟨hc, ⟨hbuf, hsize, hoff, hstream⟩, hin, hinSize⟩ := hv
  refine ⟨hc.trans h.control, fun hT => ?_⟩
  obtain ⟨hok, hpos, hss⟩ := h.reader hT
  exact ⟨hok.congr hbuf hsize hoff hstream hin hinSize, by rw [← hpos, State.pos, State.pos, hoff, hsize],
    hstream.trans hss⟩

theorem Reads.readerOk (h : Reads T n s u) (hT : T) : ReaderOk u := (h.reader hT).1

theorem SameButReader.controlView (h : SameButReader s u) : u.controlView = s.controlView := by rw [h]; rfl

theorem Consumed.reads (h : Consumed n s u) : Reads T n s u :=
  ⟨h.same.controlView, fun _ => ⟨h.ok, h.pos, h.streamSize⟩⟩

theorem brLoad_same (k : Nat) (s : State) : SameButReader s (brLoad k s) := by
  induction k generalizing s with
  | zero => exact .refl _
  | succ k ih => exact (sameButReader_loadByte s).trans (ih _)

theorem brFill_same (fuel : Nat) {a : Unit} (h : brFill fuel n s = .ok a u) : SameButReader s u := by
  induction fuel generalizing s with
  | zero => cases h; exact .refl _
  | succ fuel ih =>
    simp only [brFill] at h
    split at h
    · obtain ⟨_, s1, hr, h⟩ := Res.bind_eq_ok h
      obtain ⟨-, -, rfl⟩ := brRead_ok hr
      exact (brLoad_same _ s).trans (ih h)
    · cases h; exact .refl _

/-- In every state BR.GET_VALUE changes the reader only. -/
theorem brGetValue_same {v : Nat} (h : brGetValue n s = .ok v u) : SameButReader s u := by
  simp only [brGetValue] at h
  split at h
  · cases h
  · split at h
    · cases h; exact .refl s
    · split at h
      · cases h
      · obtain ⟨_, s1, hf, h⟩ := Res.bind_eq_ok h
        cases h
        exact (brFill_same 4 hf).trans (sameButReader_take n s1)

/-- The sequencer's reads. -/
theorem brGetValue_meets (hT : T → ReaderOk s) (hn : n ≤ 25) : (brGetValue n s).Meets T fun _ => Reads T n s := by
  have hok (h : T) : (∃ v u, brGetValue n s = .ok v u ∧ Consumed n s u) ∨ brGetValue n s = .raised .outOfData s := by
    by_cases hb : Available n s
    · obtain ⟨u, hu⟩ := getValue_consumed (hT h) hn hb
      exact .inl ⟨_, u, hu⟩
    · exact .inr (getValue_short (hT h).inv (by omega) hb)
  cases hr : brGetValue n s with
  | ok v u =>
    refine ⟨(brGetValue_same hr).controlView, fun h => ?_⟩
    obtain ⟨v', u', hu, hc⟩ | hraised := hok h
    · cases hu.symm.trans hr
      exact ⟨hc.ok, hc.pos, hc.streamSize⟩
    · cases hraised.symm.trans hr
  | raised e u => trivial
  | refused r =>
    intro h
    obtain ⟨v, u, hu, -⟩ | hraised := hok h
    · cases hu.symm.trans hr
    · cases hraised.symm.trans hr

theorem brReadByte_meets (hT : T → ReaderOk s) : (brReadByte s).Meets T fun _ => Reads T 8 s :=
  (brGetValue_meets hT (by decide)).bind fun _ _ h => h

theorem takeBytes_meets (k : Nat) (hT : T → ReaderOk s) : (takeBytes k s).Meets T fun _ => Reads T (8 * k) s := by
  induction k generalizing s with
  | zero => exact .refl hT
  | succ k ih =>
    refine (brReadByte_meets hT).bind fun _ u h1 => (ih h1.readerOk).imp fun _ v h2 => ?_
    rw [Nat.mul_succ, Nat.add_comm]
    exact h1.trans h2

/-- BR.FLUSH takes the rest of the partly consumed byte (40_bit_stream_reader.md R136). -/
theorem brFlush_reads (hT : T → ReaderOk s) : Reads T (alignUp s.pos - s.pos) s (brFlush s) :=
  ⟨rfl, fun h => ((flush_spec (hT h)).1.reads (T := T)).reader h⟩

/-- HT.DECODE_SYMBOL consumes at least one bit. -/
theorem htMatchLoop_meets (X : TreeStore) (fuel : Nat) : ∀ (L c : Nat) {s : State}, (T → ReaderOk s) →
    (htMatchLoop X fuel L c s).Meets T fun _ u => ∃ n, 1 ≤ n ∧ Reads T n s u := by
  induction fuel with
  | zero => exact fun _ _ _ _ => trivial
  | succ fuel ih =>
    intro L c s hT
    refine (brGetValue_meets hT (by decide)).bind fun b u h1 => ?_
    cases X.lookup (L + 1) (2 * c + b) with
    | some sym => exact ⟨1, Nat.le_refl 1, h1⟩
    | none => exact (ih _ _ h1.readerOk).imp fun _ v ⟨n, _, h2⟩ => ⟨1 + n, Nat.le_add_right 1 n, h1.trans h2⟩

theorem htMatch_meets (X : TreeId) (hT : T → ReaderOk s ∧ (s.tree X).built = true) :
    (htMatch X s).Meets T fun _ u => ∃ n, 1 ≤ n ∧ Reads T n s u := by
  unfold htMatch
  split
  · exact htMatchLoop_meets _ _ _ _ fun h => (hT h).1
  · exact fun h => absurd (hT h).2 ‹_›

theorem setTree_courseView (X : TreeId) (x : TreeStore) (s : State) : (s.setTree X x).courseView = s.courseView := by
  cases X <;> rfl

/-- HT.BUILD writes its store only. -/
theorem htBuild_meets (X : TreeId) (ls : List (BitVec 8)) (s : State) :
    (htBuild X ls s).Meets T fun _ u => u.courseView = s.courseView := by
  unfold htBuild
  split
  · trivial
  · split
    · exact setTree_courseView X _ s
    · exact setTree_courseView X _ s

theorem copyLoop_courseView (k d : Nat) (s : State) : (copyLoop k d s).courseView = s.courseView := by
  rw [copyLoop_sameButOut k d s]; rfl

theorem freeCopy_courseView (k : Nat) (s : State) : (freeCopy k s).courseView = s.courseView := by
  induction k generalizing s with
  | zero => rfl
  | succ k ih => exact ih _

/-- The copy writes OUT only. -/
theorem backReference_meets (length distance : Nat) (s : State) :
    (backReference length distance s).Meets T fun _ u => u.courseView = s.courseView := by
  unfold backReference
  split
  · trivial
  · split
    · trivial
    · split
      · exact freeCopy_courseView length s
      · exact copyLoop_courseView length distance s

/-- The data of a stored block: the reader moves on. -/
theorem storedLoop_meets (k : Nat) (hT : T → ReaderOk s) : (storedLoop k s).Meets T fun _ => Reads T (8 * k) s := by
  induction k generalizing s with
  | zero => exact .refl hT
  | succ k ih =>
    refine (brReadByte_meets hT).bind fun b u h1 => ?_
    have hput : Reads T 8 s (putOut b u) := h1.congr
    refine (ih hput.readerOk).imp fun _ v h2 => ?_
    rw [Nat.mul_succ, Nat.add_comm]
    exact hput.trans h2

theorem appendLengths_courseView (r : Nat) (v : BitVec 4) (s : State) :
    (appendLengths r v s).courseView = s.courseView := by
  induction r generalizing s with
  | zero => rfl
  | succ r ih => exact ih _

end Shared

end Sys2Proof.Machine
end

section
/-! The steps that are left of a call (44_decompress_top.md R234), and the rows of a Huffman block: each stays in the block
or ends it, and fewer steps are left. -/

namespace Sys2Proof.Machine

/-! ## The steps that are left -/

/-- How many rows may follow one another from a place of a Huffman block before a bit is consumed. -/
def Place.rank : Place → Nat
  | .dynhdr | .prelen _ | .clCode | .litCode | .distCode => 1
  | .dyntrees | .litSym | .matchCopy => 2
  | .clSym | .distSym => 3

/-- The bits of the input not yet consumed. -/
def State.bitsAhead (s : State) : Nat := 8 * s.byteStreamSize.toNat - s.pos

/-- A bound on the steps that are left of the call: twelve for each bit not yet consumed, and the rows before the next
one. -/
def stepsLeft (s : State) : Nat :=
  match s.seqState with
  | .idle | .done | .error => 0
  | .header => 96 * s.inSize.toNat + 24
  | .expectBlockHeader | .storedBlock | .trailer => 12 * s.bitsAhead + 1
  | .fixedHuffmanBlock | .dynamicHuffmanBlock => 12 * s.bitsAhead + s.place.rank

/-- The rows before the next bit, in a stream. -/
def State.rank (s : State) : Nat := if s.inHuffmanBlock then s.place.rank else 1

/-- The state of the sequencer after the block at hand (44_decompress_top.md R230). -/
def State.afterBlock (s : State) : SeqState := if s.lastBlockFlag then .trailer else .expectBlockHeader

section Left
variable {T : Prop} {n : Nat} {s t u : State}

theorem Place.rank_pos (p : Place) : 1 ≤ p.rank := by cases p <;> simp [Place.rank]

theorem State.rank_pos (s : State) : 1 ≤ s.rank := by
  unfold State.rank
  split
  · exact s.place.rank_pos
  · exact Nat.le_refl 1

theorem stepsLeft_inStream (h : s.inStream = true) : stepsLeft s = 12 * s.bitsAhead + s.rank := by
  cases hq : s.seqState <;> simp_all [State.inStream, stepsLeft, State.rank, State.inHuffmanBlock]

theorem stepsLeft_not_busy (h : s.busy = false) : stepsLeft s = 0 := by
  cases hq : s.seqState <;> simp_all [State.busy, stepsLeft]

theorem stepsLeft_pos (h : s.busy = true) : 0 < stepsLeft s := by
  have hrank : 0 < s.place.rank := s.place.rank_pos
  cases hq : s.seqState <;> simp_all [State.busy, stepsLeft]

/-- A row of a stream that consumes `n` bits, before the sequencer goes on with another rank. -/
theorem Reads.stepsLeft_lt (h : Reads T n s u) (hs : s.inStream = true) (ht : t.inStream = true)
    (hrank : t.rank < s.rank + 12 * n) (hpos : t.pos = u.pos := by rfl)
    (hsize : t.byteStreamSize = u.byteStreamSize := by rfl) (hT : T) : stepsLeft t < stepsLeft s := by
  obtain ⟨hok, hp, hss⟩ := h.reader hT
  have hend := bitsLeft_eq hok.inv
  rw [stepsLeft_inStream hs, stepsLeft_inStream ht, State.bitsAhead, State.bitsAhead, hpos, hsize, hp, hss]
  rw [hss, hp] at hend
  omega

end Left

/-! ## The rows of a Huffman block -/

/-- From `s` the sequencer goes to what satisfies `Q`; where `T` holds, fewer steps are then left. -/
structure Move (T : Prop) (s : State) (Q : State → Prop) (t : State) : Prop where
  course : Q t
  left : T → stepsLeft t < stepsLeft s

/-- The sequencer stays in the block or leaves it at its end. -/
abbrev BlockMove (T : Prop) (s : State) : State → Prop :=
  Move T s fun t => t.seqState = s.seqState ∨ t.seqState = s.afterBlock

/-- The sequencer stands at a place of a Huffman block; where `T` holds, the reader's invariants hold. -/
structure Stands (T : Prop) (p : Place) (s : State) : Prop where
  reader : T → ReaderOk s
  running : s.inHuffmanBlock = true
  at_place : s.place = p

section Block
variable {T : Prop} {n : Nat} {p : Place} {s t u : State}

theorem Stands.rank (h : Stands T p s) : s.rank = p.rank := by
  rw [State.rank, h.running, h.at_place]; rfl

/-- A row that stays in the block. -/
theorem Stands.within (h : Stands T p s) (hu : Reads T n s u) (hrank : t.place.rank < p.rank + 12 * n)
    (hq : t.seqState = u.seqState := by rfl) (hpos : t.pos = u.pos := by rfl)
    (hsize : t.byteStreamSize = u.byteStreamSize := by rfl) : BlockMove T s t := by
  have hseq : t.seqState = s.seqState := hq.trans (congrArg Prod.fst hu.control)
  have hbt : t.inHuffmanBlock = true := by rw [State.inHuffmanBlock, hseq]; exact h.running
  refine ⟨.inl hseq, hu.stepsLeft_lt (inStream_of_inHuffmanBlock h.running) (inStream_of_inHuffmanBlock hbt) ?_ hpos
    hsize⟩
  rwa [h.rank, State.rank, if_pos hbt]

theorem endOfBlock_course (s : State) : (endOfBlock s).seqState = s.afterBlock ∧ (endOfBlock s).pos = s.pos ∧
    (endOfBlock s).byteStreamSize = s.byteStreamSize := by
  unfold endOfBlock
  split <;> exact ⟨rfl, rfl, rfl⟩

theorem afterBlock_inStream (h : t.seqState = s.afterBlock) : t.inStream = true ∧ t.rank = 1 := by
  unfold State.afterBlock at h
  split at h <;> simp [State.inStream, State.rank, State.inHuffmanBlock, h]

/-- The end of a block. -/
theorem Reads.endOfBlock (h : Reads T n s u) (hs : s.inStream = true) (hrank : 1 < s.rank + 12 * n) :
    Move T s (fun t => t.seqState = s.afterBlock) (endOfBlock u) := by
  obtain ⟨hq, hpos, hsize⟩ := endOfBlock_course u
  have hlast : u.lastBlockFlag = s.lastBlockFlag := congrArg (·.2.1) h.control
  have hq' : (Machine.endOfBlock u).seqState = s.afterBlock := by rw [hq, State.afterBlock, hlast]; rfl
  obtain ⟨hst, hr⟩ := afterBlock_inStream hq'
  exact ⟨hq', h.stepsLeft_lt hs hst (hr ▸ hrank) hpos hsize⟩

/-! ### The tree description of a dynamic block -/

theorem execDynhdr_moves (hlit hdist : BitVec 5) (hclen : BitVec 4) (h : Stands T .dynhdr s) :
    OutcomeMeets T (BlockMove T s) (execDynhdr hlit hdist hclen s) := by
  refine ((brGetValue_meets h.reader (by decide)).bind fun _ u hu => ?_).outcome
  dsimp only
  split
  · trivial
  · exact h.within hu (by show 1 < 1 + _; decide)

theorem execPrelen_moves {i : Nat} (length : BitVec 3) (h : Stands T (.prelen i) s) :
    OutcomeMeets T (BlockMove T s) (execPrelen length s) := by
  refine ((brGetValue_meets h.reader (by decide)).bind fun _ u hu => ?_).outcome
  dsimp only
  split
  · exact h.within hu (by show 1 < 1 + _; decide)
  · refine (htBuild_meets _ _ _).bind fun _ v hv => ?_
    exact h.within (hu.congr hv) (by show 1 < 1 + _; decide)

/-- Lengths appended; the next pre-code symbol or DYNTREES comes next. -/
theorem Stands.codeLengthLoop (h : Stands T .clSym s) (hu : Reads T n s u) (r : Nat) (v : BitVec 4) :
    BlockMove T s (codeLengthLoop (appendLengths r v u)) := by
  have happend : Reads T n s (appendLengths r v u) := hu.congr (appendLengths_courseView r v u)
  unfold Machine.codeLengthLoop
  split
  · exact h.within happend (by show 1 < 3 + _; omega)
  · exact h.within happend (by show 2 < 3 + _; omega)

/-- A repeat after its extra bits (42_deflate_framing.md R185, R187, R188). -/
theorem repeatRow_moves (h : Stands T .clSym s) (hn : n ≤ 25) (count : Nat → Nat) (v : State → BitVec 4) :
    ((brGetValue n s).bind fun e u => repeatLength (count e) (v u) u).Meets T fun _ => BlockMove T s := by
  refine (brGetValue_meets h.reader hn).bind fun _ u hu => ?_
  unfold repeatLength
  split
  · trivial
  · exact h.codeLengthLoop hu _ _

theorem clsymRow_moves (h : Stands T .clSym s) {w : Nat} {i : Instr} (hi : decodeClsym w = some i) :
    OutcomeMeets T (BlockMove T s) (exec i s) := by
  unfold decodeClsym at hi
  split at hi
  · cases hi
    exact .next (h.codeLengthLoop (.refl h.reader) 1 _)
  · split at hi <;> cases hi
    · refine Res.Meets.outcome ?_
      split
      · trivial
      · exact repeatRow_moves h (by decide) (3 + ·) previousLength
    · exact (repeatRow_moves h (by decide) (3 + ·) fun _ => 0).outcome
    · exact (repeatRow_moves h (by decide) (11 + ·) fun _ => 0).outcome

theorem execDyntrees_moves (h : Stands T .dyntrees s) : OutcomeMeets T (BlockMove T s) (exec .dyntrees s) := by
  rw [exec_dyntrees]
  split
  · exact .error rfl
  · exact .next (h.within (.refl h.reader) (by show 1 < 2 + _; decide))

/-! ### The symbol loop -/

/-- What a bits-to-symbol row completes with: at least one bit consumed, and the symbol. -/
def CodeRead (T : Prop) (s u : State) : Prop := ∃ n v r, 1 ≤ n ∧ Reads T n s r ∧ u = setResult v r

theorem codeRow_reads (X : TreeId) (hT : T → ReaderOk s ∧ (s.tree X).built = true) :
    OutcomeMeets T (CodeRead T s) (exec (codeInstr X s) s) := by
  rw [(codeRowsAgreeWithDecodeSymbol X s).1]
  exact (htMatch_meets X hT).outcomeWith fun m r ⟨n, hn, hr⟩ => ⟨n, _, r, hn, hr, rfl⟩

/-- The symbol goes to its register (30_encoding.md R106). -/
theorem Stands.latch (h : Stands T p s) (hc : p.isCode = true) (hu : CodeRead T s u) :
    (latchSymbol p u).seqState = .error ∨ BlockMove T s (latchSymbol p u) := by
  obtain ⟨n, v, r, hn, hr, rfl⟩ := hu
  by_cases he : (setResult v r).seqState = .error
  · exact .inl (by rw [latchSymbol_error he]; exact he)
  cases p with
  | clCode =>
    rw [latchSymbol_clCode he]
    exact .inr (h.within hr (by show 3 < 1 + _; omega))
  | litCode =>
    rw [latchSymbol_litCode he]
    exact .inr (h.within hr (by show 2 < 1 + _; omega))
  | distCode =>
    rw [latchSymbol_distCode he]
    split
    · exact .inl rfl
    · exact .inr (h.within hr (by show 3 < 1 + _; omega))
  | _ => cases hc

theorem lengthElement_moves {k : Nat} (hk : k < 29) (h : Stands T .litSym s) :
    OutcomeMeets T (BlockMove T s) (lengthElement k s) :=
  (brGetValue_meets h.reader (len_range k hk).1).outcomeWith fun _ _ hu => h.within hu (by show 1 < 2 + _; omega)

theorem execLit_moves (byte : Byte) (h : Stands T .litSym s) : OutcomeMeets T (BlockMove T s) (execLit byte s) := by
  unfold execLit
  split
  · exact .error rfl
  · exact .next (h.within (.refl h.reader) (by show 1 < 2 + _; decide))

theorem execEob_moves (h : Stands T .litSym s) : OutcomeMeets T (BlockMove T s) (execEob s) :=
  have hend := (Reads.refl h.reader).endOfBlock (inStream_of_inHuffmanBlock h.running) (by rw [h.rank]; decide)
  .next ⟨.inr hend.course, hend.left⟩

theorem litlenRow_moves (h : Stands T .litSym s) {w : Nat} {i : Instr} (hi : decodeLitlen w = some i) :
    OutcomeMeets T (BlockMove T s) (exec i s) := by
  unfold decodeLitlen at hi
  split at hi
  · cases hi; exact execLit_moves _ h
  · split at hi
    · cases hi; exact execEob_moves h
    · split at hi
      · obtain ⟨hk, he⟩ := exec_lenInstr hi
        rw [he]
        exact lengthElement_moves hk h
      · split at hi
        · cases hi; exact .error rfl
        · split at hi <;> cases hi
          exact .error rfl

/-- Distance symbols 30 and 31 are the guard of 43_lz77_expander.md R208. -/
theorem exec_decodeDist_reserved {j : Nat} {i : Instr} (h : decodeDist j = some i) (hj : ¬j < 30) (s : State) :
    exec i s = .next (takeError .invalidSymbol s) := by
  unfold decodeDist at h
  split at h <;> cases h
  case h_31 | h_32 => rfl
  all_goals exact absurd (by decide) hj

theorem distRow_moves (h : Stands T .distSym s) {w : Nat} {i : Instr} (hi : decodeDist w = some i) :
    OutcomeMeets T (BlockMove T s) (exec i s) := by
  by_cases hw : w < 30
  · rw [exec_decodeDist hi hw]
    exact (brGetValue_meets h.reader (dist_range w hw).1).outcomeWith fun _ _ hu =>
      h.within hu (by show 2 < 3 + _; omega)
  · rw [exec_decodeDist_reserved hi hw]; exact .error rfl

theorem execMatchCopy_moves (h : Stands T .matchCopy s) : OutcomeMeets T (BlockMove T s) (execMatchCopy s) :=
  (backReference_meets _ _ s).outcomeWith fun _ _ hv =>
    h.within ((Reads.refl h.reader).congr hv) (by show 1 < 2 + _; omega)

end Block

end Sys2Proof.Machine
end

section
/-! One row of the engine: where it leads the sequencer (44_decompress_top.md R222), and that the call ends (R234). -/

namespace Sys2Proof.Machine

/-! ## The other rows -/

section Rows
variable {T : Prop} {s t : State}

/-- Where a row of the engine may lead, but for ERROR (44_decompress_top.md R222). -/
def Follows (s t : State) : Prop :=
  match s.seqState with
  | .idle | .done | .error => False
  | .header => t.seqState = .expectBlockHeader
  | .expectBlockHeader =>
    (t.seqState = .storedBlock ∧ t.blockType = 0) ∨ (t.seqState = .fixedHuffmanBlock ∧ t.blockType = 1) ∨
      (t.seqState = .dynamicHuffmanBlock ∧ t.blockType = 2)
  | .storedBlock => t.seqState = s.afterBlock
  | .fixedHuffmanBlock | .dynamicHuffmanBlock => t.seqState = s.seqState ∨ t.seqState = s.afterBlock
  | .trailer => t.seqState = .done

theorem Follows.ne_idle (h : Follows s t) : t.seqState ≠ .idle := by
  have hafter : SeqState.idle ≠ s.afterBlock := by unfold State.afterBlock; split <;> nofun
  intro hidle
  unfold Follows at h
  rw [hidle] at h
  split at h <;> simp_all

theorem zhdrRow_moves (b0 b1 : Byte) (hq : s.seqState = .header) (h : 1 ≤ s.inSize.toNat) :
    OutcomeMeets T (Move T s (Follows s)) (exec (decodeZhdr (b0.toNat + 256 * b1.toNat)) s) := by
  rw [exec_decodeZhdr b0 b1 h]
  split
  · exact .error rfl
  · split
    · exact .error rfl
    · split
      · exact .error rfl
      · split
        · exact .error rfl
        · refine .next ⟨by simp only [Follows, hq], fun _ => ?_⟩
          have hahead : State.bitsAhead { brInit 2 s with outOffset := 0, seqState := .expectBlockHeader }
            = 8 * s.inSize.toNat - 16 := rfl
          simp only [stepsLeft, hq, hahead]
          omega

/-- The block header's 3 bits are consumed, and the block is entered. -/
theorem blockHeader_moves (last : Bool) (type : BitVec 2) {f : State → State} (hT : T → ReaderOk s)
    (hq : s.seqState = .expectBlockHeader) (hf : ∀ u, u.blockType = type → Follows s (f u))
    (hst : ∀ u, (f u).inStream = true ∧ (f u).rank = 1 := by exact fun _ => ⟨rfl, rfl⟩)
    (hpos : ∀ u, (f u).pos = u.pos := by exact fun _ => rfl)
    (hsize : ∀ u, (f u).byteStreamSize = u.byteStreamSize := by exact fun _ => rfl) :
    OutcomeMeets T (Move T s (Follows s)) ((blockHeader last type s).outcomeWith fun _ => f) := by
  have hread : (blockHeader last type s).Meets T fun _ u =>
      u.blockType = type ∧ ∃ r, Reads T 3 s r ∧ u.pos = r.pos ∧ u.byteStreamSize = r.byteStreamSize :=
    (brGetValue_meets hT (by decide)).bind fun _ r hr => ⟨rfl, r, hr, rfl, rfl⟩
  refine hread.outcomeWith fun _ u ⟨htype, r, hr, hupos, husize⟩ => ⟨hf u htype, ?_⟩
  have hrank : (f u).rank < s.rank + 12 * 3 := by rw [(hst u).2]; omega
  exact hr.stepsLeft_lt (by simp [State.inStream, hq]) (hst u).1 hrank ((hpos u).trans hupos) ((hsize u).trans husize)

theorem bhdrRow_moves (w : Nat) (hT : T → ReaderOk s) (hq : s.seqState = .expectBlockHeader) :
    OutcomeMeets T (Move T s (Follows s)) (exec (decodeBhdr w) s) := by
  unfold decodeBhdr
  generalize (bits w 0 1 == 1) = last
  dsimp only
  split
  · exact blockHeader_moves last 0 hT hq fun u hu => by simp [Follows, hq, hu]
  · exact blockHeader_moves last 1 hT hq fun u hu => by simp [Follows, hq, hu, goto]
  · exact blockHeader_moves last 2 hT hq fun u hu => by simp [Follows, hq, hu, goto]
  · refine Res.Meets.outcome (Res.Meets.bind (Q := fun _ _ => True) ?_ fun _ _ _ => trivial)
    exact (brGetValue_meets hT (by decide)).bind fun _ _ _ => trivial

/-- PAD and STORED: 32 bits at least are consumed, and the block ends. -/
theorem execStored_moves (len nlen : BitVec 16) (hT : T → ReaderOk s) (hq : s.seqState = .storedBlock) :
    OutcomeMeets T (Move T s (Follows s)) (exec (.stored len nlen) s) := by
  have hs : s.inStream = true := by simp [State.inStream, hq]
  have hrank := s.rank_pos
  have hflush := brFlush_reads hT
  rw [exec_stored]
  refine ((brGetValue_meets hflush.readerOk (by decide)).bind fun _ s1 h1 => ?_).outcome
  have h1' : Reads T 16 (brFlush s) { s1 with storedLen := len } := h1.congr
  refine (brGetValue_meets h1'.readerOk (by decide)).bind fun _ s2 h2 => ?_
  have h3 : Reads T (16 + 16) (brFlush s) { s2 with storedNlen := nlen } := (h1'.trans h2).congr
  generalize ({ s2 with storedNlen := nlen } : State) = s3 at h3
  unfold storedData
  split
  · trivial
  · split
    · trivial
    · split
      · trivial
      · refine (storedLoop_meets _ h3.readerOk).bind fun _ s4 h4 => ?_
        have hend := (hflush.trans (h3.trans h4)).endOfBlock hs (by omega)
        exact ⟨by simp only [Follows, hq]; exact hend.course, hend.left⟩

theorem execTrailer_moves (hi lo : BitVec 16) (hT : T → ReaderOk s) (hq : s.seqState = .trailer) :
    OutcomeMeets T (Move T s (Follows s)) (exec (.trailer hi lo) s) := by
  have hflush := brFlush_reads hT
  show OutcomeMeets T _ (execTrailer hi lo s)
  refine Res.Meets.outcome ?_
  dsimp only
  split
  · trivial
  · refine (takeBytes_meets 4 hflush.readerOk).bind fun _ s2 _ => ?_
    split
    · trivial
    · exact ⟨by simp only [Follows, hq], fun _ => stepsLeft_pos (by simp [State.busy, hq])⟩

end Rows

/-! ## One row of the engine -/

section Engine
variable {T : Prop} {P Q : State → Prop} {s t u : State}

/-- After a row outside the codes of a Huffman block nothing is added. -/
theorem OutcomeMeets.afterRow {x : Host.Outcome State Fault Refusal} (h : OutcomeMeets T Q x)
    (hq : ∀ u, Q u → (afterRow s u).seqState = .error ∨ P (afterRow s u)) :
    OutcomeMeets T P (mapNext x (afterRow s)) := by
  cases h with
  | error h =>
    refine .error ?_
    rw [(symbolGoesToItsRegister s _).2.1 h]; exact h
  | next h =>
    obtain he | hp := hq _ h
    · exact .error he
    · exact .next hp
  | fault h r => exact .fault h r
  | refused h r => exact .refused h r

theorem fetched_not_refused {f : Format} {w : Nat} (hw : w < 2 ^ f.width) (h : (decodeFit f w).isSome = true)
    (r : Refusal) : fetched f w ≠ .refuse r := by
  obtain ⟨i, hi⟩ := Option.isSome_iff_exists.1 h
  rw [fetched, decode_eq_ok_iff.2 ⟨hw, hi⟩]
  nofun

theorem peekField_not_refused (h : ReaderOk s) {f : Format} (hf : f.width ≤ 25)
    (hfit : ∀ w, (decodeFit f w).isSome = true) (r : Refusal) : peekField f s ≠ .refuse r := by
  rw [peekField_eq h hf]
  split
  · exact fetched_not_refused (fieldAt_lt _ _ _) (hfit _) r
  · nofun

/-- What the bits of a Huffman block select is an element (log 23). -/
theorem nextInBlock_not_refused {p : Place} (h : InBlock p s) (r : Refusal) : nextInBlock s ≠ .refuse r := by
  have hpl := h.placeOk
  have hreader := h.streamOk.reader
  simp only [nextInBlock, h.at_place]
  cases p with
  | dynhdr => exact peekField_not_refused hreader (by decide) (fun _ => rfl) r
  | prelen i => exact peekField_not_refused hreader (by decide) (fun _ => rfl) r
  | clSym =>
    obtain ⟨-, -, -, -, -, hsym⟩ := (placeOk_clSym h.at_place).1 hpl
    have hfit : ∀ w < 19, (decodeFit .clsym5 w).isSome = true := by decide
    exact fetched_not_refused (hsym.trans (by decide)) (hfit _ hsym) r
  | litSym =>
    dsimp only
    unfold fetched
    split
    · nofun
    · rw [if_pos rfl]; nofun
  | distSym =>
    have hfit : ∀ w < 32, (decodeFit .dist5 w).isSome = true := by decide
    exact fetched_not_refused s.distSymbol.isLt (hfit _ s.distSymbol.isLt) r
  | clCode | dyntrees | litCode | distCode | matchCopy => nofun

theorem nextInstr_not_refused (h : Inv s) (r : Refusal) : nextInstr s ≠ .refuse r := by
  have reader (hs : s.inStream = true) : ReaderOk s := (h.reader hs).1
  unfold nextInstr
  cases hq : s.seqState with
  | idle | done | error => nofun
  | header =>
    dsimp only
    unfold peekHeader
    split
    · nofun
    · have hw (b0 b1 : Byte) : b0.toNat + 256 * b1.toNat < 2 ^ 16 := by omega
      refine fetched_not_refused ?_ rfl r
      split
      · exact hw _ 0
      · exact hw _ _
  | expectBlockHeader => exact peekField_not_refused (reader (by simp [State.inStream, hq])) (by decide) (fun _ => rfl) r
  | storedBlock =>
    dsimp only
    rw [peekStored_eq (reader (by simp [State.inStream, hq]))]
    split
    · exact fetched_not_refused (fieldAt_lt _ _ _) rfl r
    · nofun
  | trailer =>
    have hreader := reader (by simp [State.inStream, hq])
    dsimp only
    rw [peekTrailer_eq hreader]
    split
    · refine fetched_not_refused ?_ rfl r
      have b (a : Nat) := (memReadIn a s).isLt
      have b0 := b (alignUp s.pos / 8); have b1 := b (alignUp s.pos / 8 + 1)
      have b2 := b (alignUp s.pos / 8 + 1 + 1); have b3 := b (alignUp s.pos / 8 + 1 + 1 + 1)
      simp only [bytesBelow, Format.width]
      omega
    · nofun
  | fixedHuffmanBlock | dynamicHuffmanBlock =>
    exact nextInBlock_not_refused ⟨h, by simp [State.inHuffmanBlock, hq], rfl⟩ r

/-- The trees of the symbol loop (10_state.md R29) are built. -/
theorem InBlock.treesInUse_built {p : Place} (h : InBlock p s) (ht : SymbolTreesReady s) :
    (s.tree s.litTreeInUse).built = true ∧ (s.tree s.distTreeInUse).built = true := by
  rcases h.kind with ⟨-, hk⟩ | ⟨hq, hk⟩
  · simp only [State.litTreeInUse, State.distTreeInUse, hk, if_true]
    exact ⟨rfl, rfl⟩
  · simp only [State.litTreeInUse, State.distTreeInUse, hk]
    exact ⟨(ht hq).litBuilt, (ht hq).distBuilt⟩

theorem fetched_ne_none (f : Format) (w : Nat) : fetched f w ≠ .none := by
  unfold fetched
  split
  · nofun
  · split <;> nofun

theorem peek_ne_none {α : Type} {x : Res α} {f : α → Fetch} (hf : ∀ a, f a ≠ .none) : peek x f ≠ .none := by
  cases x with
  | ok a s => exact hf a
  | raised e s => nofun
  | refused r => nofun

theorem nextInBlock_ne_none (s : State) : nextInBlock s ≠ .none := by
  have field (f : Format) : peekField f s ≠ .none := peek_ne_none fun _ => fetched_ne_none _ _
  unfold nextInBlock
  cases s.place with
  | dynhdr | prelen i => exact field _
  | clSym | litSym | distSym => exact fetched_ne_none _ _
  | clCode | dyntrees | litCode | distCode | matchCopy => nofun

/-- While a call runs, something comes next. -/
theorem nextInstr_ne_none (hb : s.busy = true) : nextInstr s ≠ .none := by
  unfold nextInstr
  split
  case h_1 hq | h_2 hq | h_3 hq => simp [State.busy, hq] at hb
  · unfold peekHeader
    split
    · nofun
    · exact fetched_ne_none _ _
  · exact peek_ne_none fun _ => fetched_ne_none _ _
  · exact peek_ne_none fun _ => fetched_ne_none _ _
  · exact nextInBlock_ne_none s
  · exact nextInBlock_ne_none s
  · unfold peekTrailer
    split
    · nofun
    · exact peek_ne_none fun _ => fetched_ne_none _ _

theorem nextInstr_not_busy (hb : s.busy = false) : nextInstr s = .none := by
  cases hq : s.seqState <;> simp_all [State.busy, nextInstr]

theorem engineStep_not_busy (hb : s.busy = false) : engineStep s = .next s := by
  rw [engineStep, nextInstr_not_busy hb]

/-- In HEADER there is a row only if byte 0 is there. -/
theorem nextInstr_header_instr (hq : s.seqState = .header) {i : Instr} (hi : nextInstr s = .instr i) :
    1 ≤ s.inSize.toNat ∧ ∃ b0 b1 : Byte, i = decodeZhdr (b0.toNat + 256 * b1.toNat) := by
  have hsize : 1 ≤ s.inSize.toNat := by
    by_contra h
    simp only [nextInstr, hq, peekHeader, if_pos (Nat.lt_of_not_le h)] at hi
    cases hi
  rw [nextInstr_header hq hsize] at hi
  cases hi
  exact ⟨hsize, _, _, rfl⟩

/-- A row of a Huffman block. -/
theorem nextInBlock_moves {p : Place} (hT : T → Inv s) (hb : s.inHuffmanBlock = true) (hp : s.place = p) {i : Instr}
    (hi : nextInBlock s = .instr i) : OutcomeMeets T (BlockMove T s) (mapNext (exec i s) (afterRow s)) := by
  have hs := inStream_of_inHuffmanBlock hb
  have h : Stands T p s := ⟨fun hT' => ((hT hT').reader hs).1, hb, hp⟩
  have hin (hT' : T) : InBlock p s := ⟨hT hT', hb, hp⟩
  have row (hc : p.isCode = false) (hx : OutcomeMeets T (BlockMove T s) (exec i s)) :
      OutcomeMeets T (BlockMove T s) (mapNext (exec i s) (afterRow s)) :=
    hx.afterRow fun u hu => .inr (by rw [afterRow_not_code (by rw [hp]; exact hc)]; exact hu)
  have code (hc : p.isCode = true) {X : TreeId} (hx : i = codeInstr X s) (hbuilt : T → (s.tree X).built = true) :
      OutcomeMeets T (BlockMove T s) (mapNext (exec i s) (afterRow s)) := by
    rw [hx]
    refine (codeRow_reads X fun hT' => ⟨h.reader hT', hbuilt hT'⟩).afterRow fun u hu => ?_
    rw [afterRow_inHuffmanBlock hb, hp]
    exact h.latch hc hu
  simp only [nextInBlock, hp] at hi
  cases p with
  | dynhdr =>
    obtain ⟨w, hw⟩ := peekField_instr hi
    cases hw
    exact row rfl (execDynhdr_moves _ _ _ h)
  | prelen k =>
    obtain ⟨w, hw⟩ := peekField_instr hi
    cases hw
    exact row rfl (execPrelen_moves _ h)
  | clCode =>
    cases hi
    refine code rfl rfl fun hT' => ?_
    obtain ⟨-, -, -, hbuilt, -⟩ := (placeOk_clCode hp).1 (hin hT').placeOk
    exact hbuilt
  | clSym => exact row rfl (clsymRow_moves h (fetched_instr hi))
  | dyntrees =>
    cases hi
    exact row rfl (execDyntrees_moves h)
  | litCode =>
    cases hi
    exact code rfl rfl fun hT' => ((hin hT').treesInUse_built ((placeOk_litCode hp).1 (hin hT').placeOk)).1
  | litSym => exact row rfl (litlenRow_moves h (fetched_instr hi))
  | distCode =>
    cases hi
    exact code rfl rfl fun hT' => ((hin hT').treesInUse_built ((placeOk_distCode hp).1 (hin hT').placeOk).1).2
  | distSym => exact row rfl (distRow_moves h (fetched_instr hi))
  | matchCopy =>
    cases hi
    exact row rfl (execMatchCopy_moves h)

/-- One row of the engine while a call runs, in every state. -/
theorem engineStep_moves (hT : T → Inv s) (hb : s.busy = true) :
    OutcomeMeets T (Move T s (Follows s)) (engineStep s) := by
  have reader (hs : s.inStream = true) (h : T) : ReaderOk s := ((hT h).reader hs).1
  have outside (hh : s.inHuffmanBlock = false) {i : Instr} (hx : OutcomeMeets T (Move T s (Follows s)) (exec i s)) :
      OutcomeMeets T (Move T s (Follows s)) (mapNext (exec i s) (afterRow s)) :=
    hx.afterRow fun u hu => .inr (by rw [afterRow_outside_block hh]; exact hu)
  have block (hh : s.inHuffmanBlock = true)
      (hf : ∀ t, t.seqState = s.seqState ∨ t.seqState = s.afterBlock → Follows s t)
      {i : Instr} (hi : nextInBlock s = .instr i) :
      OutcomeMeets T (Move T s (Follows s)) (mapNext (exec i s) (afterRow s)) :=
    (nextInBlock_moves hT hh rfl hi).imp fun t ht => ⟨hf t ht.course, ht.left⟩
  unfold engineStep
  cases hi : nextInstr s with
  | raise e => exact .error rfl
  | refuse r => exact .refused (fun h => nextInstr_not_refused (hT h) r hi) r
  | none => exact absurd hi (nextInstr_ne_none hb)
  | instr i =>
    dsimp only
    cases hq : s.seqState with
    | idle | done | error => simp [State.busy, hq] at hb
    | header =>
      obtain ⟨hsize, b0, b1, rfl⟩ := nextInstr_header_instr hq hi
      exact outside (by simp [State.inHuffmanBlock, hq]) (zhdrRow_moves _ _ hq hsize)
    | expectBlockHeader =>
      simp only [nextInstr, hq] at hi
      obtain ⟨w, hw⟩ := peekField_instr hi
      cases hw
      exact outside (by simp [State.inHuffmanBlock, hq]) (bhdrRow_moves w (reader (by simp [State.inStream, hq])) hq)
    | storedBlock =>
      simp only [nextInstr, hq] at hi
      obtain ⟨len, nlen, rfl⟩ := peekStored_instr hi
      exact outside (by simp [State.inHuffmanBlock, hq])
        (execStored_moves len nlen (reader (by simp [State.inStream, hq])) hq)
    | trailer =>
      simp only [nextInstr, hq] at hi
      obtain ⟨hiHalf, loHalf, rfl⟩ := peekTrailer_instr hi
      exact outside (by simp [State.inHuffmanBlock, hq])
        (execTrailer_moves hiHalf loHalf (reader (by simp [State.inStream, hq])) hq)
    | fixedHuffmanBlock | dynamicHuffmanBlock =>
      simp only [nextInstr, hq] at hi
      exact block (by simp [State.inHuffmanBlock, hq]) (fun t ht => by simpa only [Follows, hq] using ht) hi

end Engine

/-! ## The call -/

/-- Settles O17: what a row of the engine leads to is `Follows` (`engineStep_moves`), a clause per state of the
sequencer. -/
theorem sequencerTransitions : Obligations.SequencerTransitions := by
  intro s t hin ht
  rw [step_of_no_inputs hin] at ht
  have row (hb : s.busy = true) : t.seqState = .error ∨ Follows s t :=
    ((engineStep_moves (T := False) False.elim hb).next_or ht).imp_right Move.course
  have after (h : t.seqState = s.afterBlock) : (t.seqState = .expectBlockHeader ∧ s.lastBlockFlag = false) ∨
      (t.seqState = .trailer ∧ s.lastBlockFlag = true) := by
    cases hl : s.lastBlockFlag <;> simp_all [State.afterBlock]
  refine ⟨fun hb => ?_, fun hq => ?_, fun hq => ?_, fun hq => ?_, fun hh => ?_, fun hq => ?_⟩
  · rw [engineStep_not_busy hb] at ht
    cases ht; rfl
  · have h := row (by simp [State.busy, hq])
    simp only [Follows, hq] at h
    exact h.symm
  · have h := row (by simp [State.busy, hq])
    simp only [Follows, hq] at h
    tauto
  · have h := row (by simp [State.busy, hq])
    simp only [Follows, hq] at h
    obtain h | h := h
    · exact .inr (.inr h)
    · exact (after h).imp_right .inl
  · have h := row (busy_of_inStream (inStream_of_inHuffmanBlock hh))
    simp only [State.inHuffmanBlock, Bool.or_eq_true, beq_iff_eq] at hh
    have h : t.seqState = .error ∨ t.seqState = s.seqState ∨ t.seqState = s.afterBlock := by
      rcases hh with hq | hq <;> simpa only [Follows, hq] using h
    obtain h | h | h := h
    · exact .inr (.inr (.inr h))
    · exact .inl h
    · exact .inr ((after h).imp_right .inl)
  · have h := row (by simp [State.busy, hq])
    simp only [Follows, hq] at h
    exact h.symm

/-! ## The end of the call -/

/-- While a call runs and the invariant holds there is a next state, with fewer steps left; it is not IDLE. -/
theorem engineStep_next {s : State} (h : Inv s) (hb : s.busy = true) :
    ∃ t, engineStep s = .next t ∧ stepsLeft t < stepsLeft s ∧ t.seqState ≠ .idle := by
  have hmoves := engineStep_moves (T := True) (fun _ => h) hb
  obtain ⟨t, ht⟩ := hmoves.exists_next trivial
  refine ⟨t, ht, ?_⟩
  obtain he | hm := hmoves.next_or ht
  · rw [stepsLeft_not_busy (by simp [State.busy, he]), he]
    exact ⟨stepsLeft_pos hb, nofun⟩
  · exact ⟨hm.left trivial, hm.course.ne_idle⟩

theorem engineStep_inputs {s t : State} (ht : engineStep s = .next t) : t.inputs = s.inputs := by
  have hrow := engineStep_agree (coherent_sameHostSide s) (fun _ _ _ => restartable_sameHostSide s)
    (alike_kept ⟨rfl, rfl, rfl, rfl, rfl⟩)
  obtain ⟨-, -, -, -, h⟩ | ⟨e, u, ⟨-, -, -, -, h⟩, rfl⟩ := hrow.kept ht <;> exact h

theorem run_succ {s t : State} (h : step s = .next t) (k : Nat) :
    Host.Core.run Sys2Proof.core (k + 1) s = Host.Core.run Sys2Proof.core k t := by
  have hcore : Sys2Proof.core.step s = .next t := h
  simp only [Host.Core.run, hcore]

theorem seqState_of_not_busy {s : State} (h : s.busy = false) (hi : s.seqState ≠ .idle) :
    s.seqState = .done ∨ s.seqState = .error := by
  cases hq : s.seqState <;> simp_all [State.busy]

/-- The call ends before its steps are used up. -/
theorem callEnds_within (n : Nat) {s : State} (h : Inv s) (hb : s.busy = true) (hin : s.inputs = [])
    (hn : stepsLeft s ≤ n) : ∃ k t, k ≤ n ∧ CallEndsIn k s t ∧ (t.seqState = .done ∨ t.seqState = .error) := by
  induction n generalizing s with
  | zero => exact absurd (stepsLeft_pos hb) (by omega)
  | succ n ih =>
    obtain ⟨t, ht, hleft, hidle⟩ := engineStep_next h hb
    have hstep : step s = .next t := (step_of_no_inputs hin).trans ht
    cases hbt : t.busy with
    | false => exact ⟨1, t, by omega, ⟨run_succ hstep 0, hbt⟩, seqState_of_not_busy hbt hidle⟩
    | true =>
      obtain ⟨k, u, hk, ⟨hrun, hend⟩, hq⟩ :=
        ih (stepKeepsInv s t h hstep) hbt ((engineStep_inputs ht).trans hin) (by omega)
      exact ⟨k + 1, u, by omega, ⟨(run_succ hstep k).trans hrun, hend⟩, hq⟩

/-- At the start of the call the bound is that of the statement. -/
theorem stepsLeft_le {s : State} (h : Inv s) : stepsLeft s ≤ 96 * s.inSize.toNat + 24 := by
  have hrank : s.place.rank ≤ 3 := by cases s.place <;> simp [Place.rank]
  have hahead (hs : s.inStream = true) : s.bitsAhead ≤ 8 * s.inSize.toNat := by
    rw [State.bitsAhead, (h.reader hs).2]; omega
  cases hq : s.seqState with
  | idle | done | error | header => simp only [stepsLeft, hq]; omega
  | expectBlockHeader | storedBlock | trailer | fixedHuffmanBlock | dynamicHuffmanBlock =>
    have := hahead (by simp [State.inStream, hq])
    simp only [stepsLeft, hq]; omega

/-- Settles O13: every row leaves fewer steps (`engineStep_next`), and at most the bound are left (`stepsLeft_le`). -/
theorem callEnds : Obligations.CallEnds := fun _ h hb hin => callEnds_within _ h hb hin (stepsLeft_le h)

end Sys2Proof.Machine
end

section
/-! The step as the statements give it: the row that comes next, and what a host's move outside a call keeps
(44_decompress_top.md R220, R222; 60_exceptions.md R262). -/

namespace Sys2Proof.Machine

/-- Settles O5: without a host's move the step is `engineStep`, a clause per answer of the fetch. -/
theorem stepRunsDecodedInstruction : Obligations.StepRunsDecodedInstruction := by
  intro s s0 h
  have hstep : step s = engineStep s0 := by
    obtain ⟨hin, rfl⟩ | ⟨rest, hin, rfl⟩ := h <;> simp only [step, nextStep, hin]
  rw [hstep]
  refine ⟨fun i hi => ?_, fun e hi => ?_, fun r hi => ?_, fun hi => ?_⟩ <;> simp only [engineStep, hi]

/-! ## A bare operation outside a call -/

section Unit
variable {α : Type} {Q : α → State → Prop} {x : Res α} {s t : State}

/-- What is asked of an operation in every state is asked of it where it completes. -/
theorem Res.meets_of_ok (h : ∀ a u, x = .ok a u → Q a u) : x.Meets False Q := by
  cases x with
  | ok a u => exact h a u rfl
  | raised e u => trivial
  | refused r => exact id

theorem takeBits_control (k : Nat) (s : State) :
    (takeBits k s).Meets False fun _ u => u.controlView = s.controlView := by
  induction k generalizing s with
  | zero => rfl
  | succ k ih =>
    exact (Res.meets_of_ok fun _ _ h => (brGetValue_same h).controlView).bind fun _ u hu =>
      (ih u).imp fun _ v hv => hv.trans hu

/-- An operation that completes leaves the sequencer and the host registers alone. -/
theorem exec_unit_control {i : Instr} (hi : i.isUnit = true) (s : State) :
    OutcomeMeets False (fun u => u.controlView = s.controlView) (exec i s) := by
  have fixed (n symbol : Nat) : OutcomeMeets False (fun u => u.controlView = s.controlView) (fixedCode n symbol s) :=
    (takeBits_control n s).outcomeWith fun _ _ h => h
  have value (n : Nat) : (brGetValue n s).Meets False fun _ u => u.controlView = s.controlView :=
    Res.meets_of_ok fun _ _ h => (brGetValue_same h).controlView
  have copy (length distance : Nat) :
      (backReference length distance s).Meets False fun _ u => u.controlView = s.controlView :=
    (backReference_meets length distance s).imp fun _ _ h => congrArg Prod.fst h
  cases i with
  | fixlit7 code | fixlit8a code | fixlit8b code | fixlit9 code | fixdist5 code => exact fixed _ _
  | brInit off =>
    show OutcomeMeets _ _ (execBrInit off s)
    unfold execBrInit
    split <;> exact .next rfl
  | brRead n =>
    exact (Res.meets_of_ok fun _ _ h => by
      obtain ⟨-, -, rfl⟩ := brRead_ok h
      exact (brLoad_same _ s).controlView).outcome
  | brGetValue n => exact (value n).outcomeWith fun _ _ h => h
  | brReadByte =>
    have hbyte : (brReadByte s).Meets False fun _ u => u.controlView = s.controlView := (value 8).bind fun _ _ h => h
    exact hbyte.outcomeWith fun _ _ h => h
  | htBuild X ls =>
    refine Res.Meets.outcome ((htBuild_meets X ls s).bind fun _ u hu => ?_)
    split
    · exact congrArg Prod.fst hu
    · exact id
  | htDecodeSymbol X =>
    exact (htMatch_meets X False.elim).outcomeWith fun _ _ ⟨_, _, h⟩ => h.control
  | dyntrees =>
    rw [exec_dyntrees]
    split
    · exact .error rfl
    · exact .next rfl
  | matchCopy => exact (copy _ _).outcomeWith fun _ _ h => h
  | lzCopy length distance => exact (copy _ _).outcome
  | adlerUpdate byte => exact .next (by rw [sameButAdler_update byte s]; rfl)
  | brFlush | brRemainingBytes | adlerInit initial | adlerFinal => exact .next rfl
  | _ => cases hi

/-- What the host reads of the last call: STATUS, ERROR_CODE and OUT_COUNT are views of these registers. -/
def State.resultView (s : State) : SeqState × BitVec 4 × Word := (s.seqState, s.errorCode, s.outCount)

theorem resultView_words (h : t.resultView = s.resultView) : t.seqState = s.seqState ∧ t.statusWord = s.statusWord ∧
    t.errorCode = s.errorCode ∧ t.errorCodeWord = s.errorCodeWord ∧ t.outCountWord = s.outCountWord := by
  simp only [State.resultView, Prod.mk.injEq] at h
  obtain ⟨hq, he, hc⟩ := h
  simp only [State.statusWord, State.errorCodeWord, State.outCountWord, hq, he, hc, and_self]

theorem issueUnit_resultView (i : Instr) (s : State) :
    EveryNext (fun t => t.resultView = s.resultView) (issueUnit i s) := by
  intro t ht
  obtain ⟨-, hi, u, hu, rfl⟩ := issueUnit_next ht
  by_cases he : u.seqState = .error
  · rw [outsideCall_raised he]; rfl
  · have hc := ((exec_unit_control (isUnit_of_issuable hi) _).next_or hu).resolve_left he
    simp only [State.controlView, Prod.mk.injEq] at hc
    obtain ⟨-, -, hcode, hcount⟩ := hc
    rw [outsideCall_completed he]
    simp only [State.resultView, hcode, hcount]

/-- A move that is neither START nor reset. -/
theorem hostMove_resultView {m : HostMove} (hstart : ∀ v, v.toNat % 2 = 1 → m ≠ .writeReg 0 v) (hreset : m ≠ .reset)
    (s : State) : EveryNext (fun t => t.resultView = s.resultView) (hostMove m s) := by
  have notBusy {u : State} (hu : u.resultView = s.resultView) :
      EveryNext (fun t => t.resultView = s.resultView) (unlessBusy s u) := by
    unfold unlessBusy
    split
    · exact everyNext_refused _
    · exact everyNext_next hu
  have within (a : Nat) {x : Host.Outcome State Fault Refusal}
      (hx : EveryNext (fun t => t.resultView = s.resultView) x) :
      EveryNext (fun t => t.resultView = s.resultView) (withOffset a x) := by
    unfold withOffset
    split
    · exact hx
    · exact everyNext_fault _
  cases m with
  | writeReg n v =>
    match n with
    | 0 =>
      show EveryNext _ (hostWriteReg 0 v s)
      rw [hostWriteReg_ctrl, if_neg fun hv => hstart v hv rfl]
      exact everyNext_next rfl
    | 1 | 2 | 5 => exact everyNext_next rfl
    | 3 | 4 => exact notBusy rfl
    | n + 6 => exact everyNext_fault _
  | readReg n =>
    rw [hostMove_readReg]
    cases s.readRegister n with
    | none => exact everyNext_fault _
    | some v => exact everyNext_next rfl
  | writeIn a b | writeOut a b | readOut a => exact within a (notBusy rfl)
  | readIn a => exact within a (everyNext_next rfl)
  | reset => exact absurd rfl hreset
  | issue i => exact issueUnit_resultView i s

end Unit

theorem exec_decompress_start {s : State} (x : BitVec 31) (hb : s.busy = false) :
    exec (.decompress x) s = .next (startCall s) := if_neg (ne_true_of_eq_false hb)

/-- Settles O59: START and reset by evaluation; every other move keeps the registers the three views are of
(`hostMove_resultView`), and outside a call the engine does nothing. -/
theorem idleDoneErrorLeftOnlyByStartOrReset : Obligations.IdleDoneErrorLeftOnlyByStartOrReset := by
  intro s t hb ht
  refine ⟨fun v rest hin hv => ?_, fun rest hin => ?_, fun hstart hreset => resultView_words ?_⟩
  · rw [step_host hin, show hostMove (.writeReg 0 v) _ = hostWriteReg 0 v _ from rfl, hostWriteReg_ctrl, if_pos hv] at ht
    cases (exec_decompress_start (s := { s with inputs := rest }) _ hb).symm.trans ht
    exact ⟨rfl, rfl, rfl, rfl, rfl⟩
  · rw [step_host hin] at ht
    cases ht
    exact ⟨rfl, rfl, rfl, rfl⟩
  · cases hin : s.inputs with
    | nil =>
      rw [step_of_no_inputs hin, engineStep_not_busy hb] at ht
      cases ht; rfl
    | cons x rest =>
      cases x with
      | tick =>
        have hstep : step s = engineStep { s with inputs := rest } := by simp only [step, nextStep, hin]
        rw [hstep, engineStep_not_busy (s := { s with inputs := rest }) hb] at ht
        cases ht; rfl
      | host m =>
        rw [step_host hin] at ht
        exact hostMove_resultView (fun v hv hm => hstart v rest hv (by rw [hin, hm]))
          (fun hm => hreset rest (by rw [hin, hm])) { s with inputs := rest } t ht

end Sys2Proof.Machine
end

section
/-! The checksum pass of the trailer (44_decompress_top.md R224 to R228): its sums, reduced every 5552 bytes, never wrap
and are those of 45_adler32_checksum.md R235. -/

namespace Sys2Proof.Machine

/-! ## The checksum pass -/

section Adler
variable {p : Nat × Nat} {c : Nat} {s : State}

/-- The checksum registers hold sums congruent to `p`, `c` additions after a reduction (45_adler32_checksum.md R240). -/
structure AdlerAt (p : Nat × Nat) (c : Nat) (s : State) : Prop where
  chunk : s.adlerChunk.toNat = c
  within : c < 5552
  lo : s.adlerLo.toNat % 65521 = p.1
  hi : s.adlerHi.toNat % 65521 = p.2
  loBound : s.adlerLo.toNat ≤ 65520 + 255 * c
  hiBound : 2 * s.adlerHi.toNat ≤ 131040 + 131040 * c + 255 * (c * (c + 1))

/-- One byte of the running sums (45_adler32_checksum.md R235). -/
def adlerNext (b : Byte) (p : Nat × Nat) : Nat × Nat :=
  ((p.1 + b.toNat) % 65521, (p.2 + (p.1 + b.toNat) % 65521) % 65521)

theorem adlerSums_cons (b : Byte) (bytes : List Byte) (p : Nat × Nat) :
    adlerSums (b :: bytes) p = adlerSums bytes (adlerNext b p) := rfl

/-- The additions do not wrap (45_adler32_checksum.md R240). -/
theorem AdlerAt.add (h : AdlerAt p c s) (b : Byte) :
    (adlerAdd b s).adlerChunk.toNat = c + 1 ∧ (adlerAdd b s).adlerLo.toNat = s.adlerLo.toNat + b.toNat ∧
      (adlerAdd b s).adlerHi.toNat = s.adlerHi.toNat + (s.adlerLo.toNat + b.toNat) := by
  obtain ⟨hchunk, hc, -, -, hlo, hhi⟩ := h
  have hb := b.isLt
  have hsquare : c * (c + 1) ≤ 5551 * 5552 := Nat.mul_le_mul (by omega) (by omega)
  have hb32 : (b.setWidth 32).toNat = b.toNat := BitVec.toNat_setWidth_of_le (by decide)
  have hlo' : (s.adlerLo + b.setWidth 32).toNat = s.adlerLo.toNat + b.toNat := by
    rw [BitVec.toNat_add, hb32]; omega
  refine ⟨?_, hlo', ?_⟩
  · rw [adlerAdd_adlerChunk, BitVec.toNat_add, hchunk]
    show (c + 1) % 2 ^ 13 = c + 1
    omega
  · rw [adlerAdd_adlerHi, BitVec.toNat_add, hlo']; omega

theorem AdlerAt.update (h : AdlerAt p c s) (b : Byte) : AdlerAt (adlerNext b p) ((c + 1) % 5552) (adlerUpdate b s) := by
  obtain ⟨hchunk, hlo, hhi⟩ := h.add b
  obtain ⟨-, hc, hlo1, hhi1, hloB, hhiB⟩ := h
  have hb := b.isLt
  have hnextLo : (adlerNext b p).1 = (s.adlerLo.toNat + b.toNat) % 65521 := by simp only [adlerNext]; omega
  have hnextHi : (adlerNext b p).2 = (s.adlerHi.toNat + (s.adlerLo.toNat + b.toNat)) % 65521 := by
    simp only [adlerNext]; omega
  have hfull : (adlerAdd b s).adlerChunk = BitVec.ofNat 13 Config.adlerNmax ↔ c + 1 = 5552 := by
    rw [← BitVec.toNat_inj, hchunk]; rfl
  unfold adlerUpdate
  dsimp only
  split
  · rename_i hchunkFull
    have hreduceLo : (adlerReduce (adlerAdd b s)).adlerLo.toNat = (adlerAdd b s).adlerLo.toNat % 65521 :=
      BitVec.toNat_umod
    have hreduceHi : (adlerReduce (adlerAdd b s)).adlerHi.toNat = (adlerAdd b s).adlerHi.toNat % 65521 :=
      BitVec.toNat_umod
    rw [hfull.1 hchunkFull, Nat.mod_self]
    refine ⟨rfl, by decide, ?_, ?_, ?_, ?_⟩
    · show (adlerReduce (adlerAdd b s)).adlerLo.toNat % 65521 = _
      rw [hreduceLo, hlo, hnextLo, Nat.mod_mod]
    · show (adlerReduce (adlerAdd b s)).adlerHi.toNat % 65521 = _
      rw [hreduceHi, hhi, hnextHi, Nat.mod_mod]
    · show (adlerReduce (adlerAdd b s)).adlerLo.toNat ≤ _
      omega
    · show 2 * (adlerReduce (adlerAdd b s)).adlerHi.toNat ≤ _
      omega
  · rename_i hchunkFull
    have hlt : c + 1 < 5552 := Nat.lt_of_le_of_ne hc fun h => hchunkFull (hfull.2 h)
    rw [Nat.mod_eq_of_lt hlt]
    refine ⟨hchunk, hlt, by rw [hlo, hnextLo], by rw [hhi, hnextHi], by omega, ?_⟩
    have hsquare : (c + 1) * (c + 1 + 1) = c * (c + 1) + 2 * (c + 1) := by ring
    omega

/-- The pass over OUT is over its bytes in order. -/
theorem AdlerAt.pass (k a : Nat) (h : AdlerAt p c s) :
    AdlerAt (adlerSums ((List.range' a k).map fun j => memReadOut j s) p) ((c + k) % 5552) (adlerPass k a s) := by
  induction k generalizing a c p s with
  | zero => rw [Nat.add_zero, Nat.mod_eq_of_lt h.within]; exact h
  | succ k ih =>
    have hread (j : Nat) : memReadOut j (adlerUpdate (memReadOut a s) s) = memReadOut j s :=
      memReadOut_congr (by rw [sameButAdler_update]) j
    have hrest := ih (a + 1) (h.update (memReadOut a s))
    simp only [hread, Nat.mod_add_mod] at hrest
    rw [List.range'_succ, List.map_cons, adlerSums_cons, show c + (k + 1) = c + 1 + k by omega]
    exact hrest

theorem adlerInit_at (s : State) : AdlerAt (1, 0) 0 (adlerInit 1 s) :=
  ⟨rfl, by decide, rfl, rfl, by show 1 ≤ _; decide, by show 0 ≤ _; decide⟩

/-- The registers after the pass: the reduced halves of ADLER32 over OUT, and the additions since the last reduction. -/
theorem adlerOfOut_eq (s : State) : adlerOfOut s = { s with
    adlerLo := BitVec.ofNat 32 (adler32 (outBytes s.outOffset.toNat s) 1 % 65536)
    adlerHi := BitVec.ofNat 32 (adler32 (outBytes s.outOffset.toNat s) 1 / 65536)
    adlerChunk := BitVec.ofNat 13 (s.outOffset.toNat % 5552) } := by
  have hpass := (adlerInit_at s).pass s.outOffset.toNat 0
  have hbytes : ((List.range' 0 s.outOffset.toNat).map fun j => memReadOut j (adlerInit 1 s))
      = outBytes s.outOffset.toNat s := by rw [outBytes, List.range_eq_range']; rfl
  rw [hbytes, Nat.zero_add] at hpass
  have hsum : adler32 (outBytes s.outOffset.toNat s) 1
      = (adlerSums (outBytes s.outOffset.toNat s) (1, 0)).2 * 65536
        + (adlerSums (outBytes s.outOffset.toNat s) (1, 0)).1 := rfl
  obtain ⟨hchunk, -, hlo, hhi, -, -⟩ := hpass
  rw [hsum, sameButAdler_ofOut s]
  congr 1
  · refine BitVec.eq_of_toNat_eq ?_
    show (adlerReduce _).adlerLo.toNat = _
    rw [adlerReduce_adlerLo, BitVec.toNat_umod, BitVec.toNat_ofNat]
    show _ % 65521 = _
    omega
  · refine BitVec.eq_of_toNat_eq ?_
    show (adlerReduce _).adlerHi.toNat = _
    rw [adlerReduce_adlerHi, BitVec.toNat_umod, BitVec.toNat_ofNat]
    show _ % 65521 = _
    omega
  · refine BitVec.eq_of_toNat_eq ?_
    show (adlerReduce _).adlerChunk.toNat = _
    rw [adlerReduce_adlerChunk, hchunk, BitVec.toNat_ofNat]
    omega

end Adler

/-! ## The trailer -/

section Trailer
variable {s : State}

/-- Two 16-bit halves as one word (30_encoding.md R102). -/
theorem trailerWord_toNat (hi lo : BitVec 16) : (trailerWord hi lo).toNat = hi.toNat * 65536 + lo.toNat := by
  rw [trailerWord, BitVec.toNat_append, ← Nat.shiftLeft_add_eq_or_of_lt lo.isLt, Nat.shiftLeft_eq]

theorem adlerSums_lt (bytes : List Byte) : ∀ {p : Nat × Nat}, p.1 < 65521 → p.2 < 65521 →
    (adlerSums bytes p).1 < 65521 ∧ (adlerSums bytes p).2 < 65521 := by
  induction bytes with
  | nil => exact fun h1 h2 => ⟨h1, h2⟩
  | cons b bytes ih => exact fun _ _ => ih (Nat.mod_lt _ (by decide)) (Nat.mod_lt _ (by decide))

theorem adler32_lt (bytes : List Byte) : adler32 bytes 1 < 2 ^ 32 := by
  obtain ⟨hlo, hhi⟩ := adlerSums_lt bytes (p := (1, 0)) (by decide) (by decide)
  show (adlerSums bytes (1, 0)).2 * 65536 + (adlerSums bytes (1, 0)).1 < 2 ^ 32
  omega

/-- ADLER.FINAL puts the reduced halves together (45_adler32_checksum.md R242). -/
theorem adlerValue_toNat {s : State} {v : Nat} (hv : v < 2 ^ 32) (hlo : s.adlerLo = BitVec.ofNat 32 (v % 65536))
    (hhi : s.adlerHi = BitVec.ofNat 32 (v / 65536)) : (adlerValue s).toNat = v := by
  have h1 : v / 65536 % 2 ^ 32 = v / 65536 := by omega
  have h2 : v % 65536 % 2 ^ 32 = v % 65536 := by omega
  have h3 : (v / 65536) <<< 16 % 2 ^ 32 = (v / 65536) <<< 16 := by rw [Nat.shiftLeft_eq]; omega
  rw [adlerValue, hlo, hhi, BitVec.toNat_or, BitVec.toNat_shiftLeft, BitVec.toNat_ofNat, BitVec.toNat_ofNat, h1, h2, h3,
    ← Nat.shiftLeft_add_eq_or_of_lt (by omega), Nat.shiftLeft_eq]
  omega

/-- PAD and the four bytes leave the reader at a byte boundary (44_decompress_top.md R224). -/
theorem takeBytes_flush (h : ReaderOk s) (hb : alignUp s.pos + 32 ≤ 8 * s.byteStreamSize.toNat) :
    takeBytes 4 (brFlush s) = .ok () (atByte (alignUp s.pos / 8 + 4) s) := by
  obtain ⟨hflush, hpos, h0, -⟩ := flush_spec h
  obtain ⟨u, hu, hc, -, -⟩ := takeBytes_spec 4 hflush.ok h0 (by
    simp only [Available, hpos, hflush.streamSize]; omega)
  have hle : s.pos ≤ alignUp s.pos := by simp only [alignUp]; omega
  have hmul : alignUp s.pos % 8 = 0 := Nat.mul_mod_left _ 8
  rw [hu, (hflush.trans hc).eq_atByte (b := alignUp s.pos / 8 + 4) (by omega)]

/-- The test of the bytes that are left after the PAD. -/
theorem remainingBytes_flush (h : ReaderOk s) :
    brRemainingBytes (brFlush s) < 4 ↔ 8 * s.byteStreamSize.toNat < alignUp s.pos + 32 := by
  obtain ⟨hflush, hpos, h0, halign⟩ := flush_spec h
  have hcursor := hflush.ok.inv.cursor
  rw [remainingBytes_empty h0, bytesLeft, ← hpos, halign, ← hflush.streamSize]
  omega

/-- Settles O55: the bytes are there or not (`remainingBytes_flush`, `takeBytes_flush`); the pass leaves the sums of
`adlerOfOut_eq`, and their word is the checksum (`adlerValue_toNat`). -/
theorem trailerDecidesCall : Obligations.TrailerDecidesCall := by
  rintro hi lo s p v h rfl rfl
  have hexec : exec (.trailer hi lo) s = Res.outcome (if brRemainingBytes (brFlush s) < 4 then _ else _) := rfl
  refine ⟨fun hb => ⟨brFlush s, rfl, ?_⟩, fun hb => ⟨_, rfl, ?_⟩⟩
  · rw [hexec, if_pos ((remainingBytes_flush h).2 hb), Res.outcome_raised]
  · have hsum := adlerOfOut_eq (atByte (alignUp s.pos / 8 + 4) s)
    have hvalue : (adlerValue (adlerOfOut (atByte (alignUp s.pos / 8 + 4) s))).toNat
        = adler32 (outBytes s.outOffset.toNat s) 1 :=
      adlerValue_toNat (adler32_lt _) (by rw [hsum]; rfl) (by rw [hsum]; rfl)
    rw [hexec, if_neg (mt (remainingBytes_flush h).1 (Nat.not_lt.2 hb)), takeBytes_flush h hb, Res.bind_ok]
    simp only [ne_eq, ← BitVec.toNat_inj, hvalue, trailerWord_toNat, ite_not]
    rw [hsum]
    split <;> rfl

end Trailer

end Sys2Proof.Machine
end

section
/-! Two calls on the same input (44_decompress_top.md R232): what of two states decides the rows that follow, and how the
bit reader, the fetch and the copies keep it. Registers that a call writes before it reads them (70_reset_and_hazards.md
R282) are not of it. -/

namespace Sys2Proof.Machine

/-! ## What decides the rows that follow -/

/-- The counts of a dynamic block. -/
def State.countsView (s : State) : BitVec 9 × BitVec 6 × BitVec 5 :=
  (s.numLiteralCodes, s.numDistanceCodes, s.numCodeLengthCodes)

/-- The same code lengths so far, of as many as there are to be. -/
def SameLengths (s t : State) : Prop :=
  t.countsView = s.countsView ∧ t.clIndex = s.clIndex ∧
    ∀ (j : Nat) (h : j < 316), j < s.clIndex.toNat → t.codeLengths[j] = s.codeLengths[j]

/-- The same trees of a dynamic block; in a fixed block they are not used. -/
def SameTrees (s t : State) : Prop :=
  s.seqState = .dynamicHuffmanBlock → t.dynLitTree = s.dynLitTree ∧ t.dynDistTree = s.dynDistTree

/-- The same in all that the rows from a place of a Huffman block on may read, but for the stream and OUT. -/
def SamePlace (p : Place) (s t : State) : Prop :=
  match p with
  | .dynhdr => True
  | .prelen i => t.countsView = s.countsView ∧ (i ≠ 0 → t.preLengths = s.preLengths)
  | .clCode => SameLengths s t ∧ t.preTree = s.preTree
  | .clSym => SameLengths s t ∧ t.preTree = s.preTree ∧ t.preSymbol = s.preSymbol
  | .dyntrees => SameLengths s t
  | .litCode => SameTrees s t
  | .litSym => SameTrees s t ∧ t.symbol = s.symbol
  | .distCode => SameTrees s t ∧ t.length = s.length
  | .distSym => SameTrees s t ∧ t.length = s.length ∧ t.distSymbol = s.distSymbol
  | .matchCopy => SameTrees s t ∧ t.length = s.length ∧ t.distance = s.distance

/-- The registers by which the sequencer goes from block to block. -/
def State.seqView (s : State) : SeqState × Bool × BitVec 2 := (s.seqState, s.lastBlockFlag, s.blockType)

/-- The bounds of the two memories, and the result of the call. -/
def State.callView (s : State) : (Word × Word × Word) × (BitVec 4 × Word) :=
  ((s.inSize, s.outOffset, s.outCapacity), (s.errorCode, s.outCount))

/-- These, and the two memories. -/
def State.heldView (s : State) : ((Word × Word × Word) × (BitVec 4 × Word)) × Memory × Memory :=
  (s.callView, s.inMem, s.outMem)

/-- The rows that follow are the same in `s` and `t`. -/
structure SameCourse (s t : State) : Prop where
  seq : t.seqView = s.seqView
  call : t.callView = s.callView
  pos : s.inStream = true → t.pos = s.pos
  input : ∀ a, a < s.inSize.toNat → memReadIn a t = memReadIn a s
  output : ∀ a, a < s.outOffset.toNat ∨ a < s.outCount.toNat → memReadOut a t = memReadOut a s
  place : s.inHuffmanBlock = true → t.place = s.place ∧ SamePlace s.place s t

section Course
variable {s t s' t' u v : State}

theorem SameCourse.seqRegs (h : SameCourse s t) :
    t.seqState = s.seqState ∧ t.lastBlockFlag = s.lastBlockFlag ∧ t.blockType = s.blockType := by
  simpa only [State.seqView, Prod.mk.injEq] using h.seq

theorem SameCourse.callRegs (h : SameCourse s t) : (t.inSize = s.inSize ∧ t.outOffset = s.outOffset ∧
    t.outCapacity = s.outCapacity) ∧ t.errorCode = s.errorCode ∧ t.outCount = s.outCount := by
  simpa only [State.callView, Prod.mk.injEq] using h.call

theorem SameCourse.inStream (h : SameCourse s t) : t.inStream = s.inStream := by
  unfold State.inStream; rw [h.seqRegs.1]

theorem SameCourse.inHuffmanBlock (h : SameCourse s t) : t.inHuffmanBlock = s.inHuffmanBlock := by
  unfold State.inHuffmanBlock; rw [h.seqRegs.1]

/-- Both go on with the memories and the result at hand. -/
theorem SameCourse.update (h : SameCourse s t) (hseq : t'.seqView = s'.seqView)
    (hpos : s'.inStream = true → t'.pos = s'.pos)
    (hplace : s'.inHuffmanBlock = true → t'.place = s'.place ∧ SamePlace s'.place s' t')
    (hs : s'.heldView = s.heldView := by rfl) (ht : t'.heldView = t.heldView := by rfl) : SameCourse s' t' := by
  simp only [State.heldView, Prod.mk.injEq] at hs ht
  obtain ⟨hscall, hsin, hsout⟩ := hs
  obtain ⟨htcall, htin, htout⟩ := ht
  have hsregs := hscall
  have htregs := htcall
  simp only [State.callView, Prod.mk.injEq] at hsregs htregs
  obtain ⟨⟨hsize, hoff, -⟩, -, hcount⟩ := hsregs
  refine ⟨hseq, by rw [hscall, htcall, h.call], hpos, fun a ha => ?_, fun a ha => ?_, hplace⟩
  · rw [memReadIn_congr hsin hsize, memReadIn_congr htin htregs.1.1]
    exact h.input a (hsize ▸ ha)
  · rw [memReadOut_congr hsout, memReadOut_congr htout]
    exact h.output a (by rwa [hoff, hcount] at ha)

/-- The same bits consumed of both. -/
theorem SameCourse.advance {m : Nat} (h : SameCourse s t) (hs : s.inStream = true) (hu : Consumed m s u)
    (hv : Consumed m t v) : SameCourse u v := by
  have hpos : v.pos = u.pos := by rw [hu.pos, hv.pos, h.pos hs]
  obtain ⟨b, n, o, rfl⟩ : ∃ b n o, u = { s with bitBuffer := b, bitBufferSize := n, byteStreamOffset := o } :=
    ⟨_, _, _, hu.same⟩
  obtain ⟨b', n', o', rfl⟩ : ∃ b n o, v = { t with bitBuffer := b, bitBufferSize := n, byteStreamOffset := o } :=
    ⟨_, _, _, hv.same⟩
  exact ⟨h.seq, h.call, fun _ => hpos, h.input, h.output, h.place⟩

/-- The same byte put out in both. -/
theorem SameCourse.putOut (h : SameCourse s t) (b : Byte) (hr : s.outOffset.toNat + 1 < 2 ^ 32) :
    SameCourse (putOut b s) (putOut b t) := by
  obtain ⟨⟨hsize, hoff, hcap⟩, herr, hcount⟩ := h.callRegs
  refine ⟨h.seq, ?_, h.pos, h.input, fun a ha => ?_, h.place⟩
  · simp only [State.callView, Prod.mk.injEq]
    exact ⟨⟨hsize, by rw [putOut_outOffset, putOut_outOffset, hoff], hcap⟩, herr, hcount⟩
  rw [putOut_offset hr] at ha
  have hcases : a ≠ s.outOffset.toNat → a < s.outOffset.toNat ∨ a < s.outCount.toNat := fun hne =>
    ha.imp_left fun hlt => by omega
  by_cases hself : a = s.outOffset.toNat
  · rw [hself, memReadOut_putOut_self, ← hoff, memReadOut_putOut_self]
  · rw [memReadOut_putOut_ne hself, memReadOut_putOut_ne (hoff ▸ hself)]
    exact h.output a (hcases hself)

/-- The same copy in both: it reads below OUT_OFFSET only. -/
theorem SameCourse.copyLoop (k : Nat) {d : Nat} (h : SameCourse s t) (h1 : 1 ≤ d) (hd : d ≤ s.outOffset.toNat)
    (hr : s.outOffset.toNat + k < 2 ^ 32) : SameCourse (copyLoop k d s) (copyLoop k d t) := by
  induction k generalizing s t with
  | zero => exact h
  | succ k ih =>
    obtain ⟨⟨-, hoff, -⟩, -⟩ := h.callRegs
    have hread : memReadOut (t.outOffset.toNat - d) t = memReadOut (s.outOffset.toNat - d) s := by
      rw [hoff]; exact h.output _ (.inl (by omega))
    have hput := putOut_offset (v := memReadOut (s.outOffset.toNat - d) s) (s := s) (by omega)
    rw [Machine.copyLoop, Machine.copyLoop, hread]
    exact ih (h.putOut _ (by omega)) (by omega) (by omega)

end Course

/-! ## Two streams -/

/-- Two streams whose rows that follow are the same. -/
structure StreamTwins (s t : State) : Prop where
  left : StreamOk s
  right : StreamOk t
  running : s.inStream = true
  same : SameCourse s t

/-- Two results of an operation that goes on, in states of which more is known. -/
theorem Res.Both.completes {α : Type} {R R' : State → State → Prop} {x y : Res α} {f : α → State → State}
    (h : x.Both R' y) (hf : ∀ a s t, R' s t → R (f a s) (f a t)) (hi : ∀ s t, R' s t → R s t) :
    OutcomesAgree R (x.outcomeWith f) (y.outcomeWith f) :=
  (h.bind (fun a s t hr => .ok () (hf a s t hr)) hi).outcome

section Streams
variable {s t u v : State} {n : Nat}

theorem StreamTwins.pos (h : StreamTwins s t) : t.pos = s.pos := h.same.pos h.running

theorem StreamTwins.size (h : StreamTwins s t) : t.byteStreamSize = s.byteStreamSize := by
  obtain ⟨⟨hsize, -⟩, -⟩ := h.same.callRegs
  rw [h.left.bound, h.right.bound, hsize]

theorem heldView_of_streamView {s' : State} (h : s'.streamView = s.streamView) :
    s'.heldView = s.heldView ∧ s'.pos = s.pos := by
  simp only [State.streamView, State.baseView, Prod.mk.injEq] at h
  obtain ⟨⟨hin, hout, -, hsize, hoff, -⟩, hinSize, hoffset, hcap, herr, hcount⟩ := h
  simp only [State.heldView, State.callView, State.pos, hin, hout, hsize, hoff, hinSize, hoffset, hcap, herr, hcount,
    and_self]

/-- The sequencer goes on in both with registers that are not of the stream. -/
theorem StreamTwins.update {s' t' : State} (h : StreamTwins s t) (hseq : t'.seqView = s'.seqView)
    (hplace : s'.inHuffmanBlock = true → t'.place = s'.place ∧ SamePlace s'.place s' t')
    (hs : s'.streamView = s.streamView := by rfl) (ht : t'.streamView = t.streamView := by rfl) : SameCourse s' t' := by
  obtain ⟨hs, hspos⟩ := heldView_of_streamView hs
  obtain ⟨ht, htpos⟩ := heldView_of_streamView ht
  exact h.same.update hseq (fun _ => by rw [hspos, htpos, h.pos]) hplace hs ht

/-- The end of a block (44_decompress_top.md R230). -/
theorem endOfBlock_views (s : State) : (endOfBlock s).seqView = (s.afterBlock, s.lastBlockFlag, s.blockType) ∧
    (endOfBlock s).streamView = s.streamView := by
  unfold endOfBlock
  split <;> exact ⟨rfl, rfl⟩

theorem StreamTwins.endOfBlock (h : StreamTwins s t) : SameCourse (endOfBlock s) (endOfBlock t) := by
  obtain ⟨-, hlast, htype⟩ := h.same.seqRegs
  obtain ⟨hs, hsv⟩ := endOfBlock_views s
  obtain ⟨ht, htv⟩ := endOfBlock_views t
  refine h.update (by rw [hs, ht, State.afterBlock, State.afterBlock, hlast, htype]) (fun hb => ?_) hsv htv
  have hafter : (Machine.endOfBlock s).seqState = s.afterBlock := congrArg Prod.fst hs
  rw [State.inHuffmanBlock, hafter, State.afterBlock] at hb
  split at hb <;> cases hb

/-- The input's fields are the same as far as they reach. -/
theorem StreamTwins.fieldAt (h : StreamTwins s t) (n : Nat) : ∀ p, p + n ≤ 8 * s.byteStreamSize.toNat →
    fieldAt t p n = fieldAt s p n := by
  induction n with
  | zero => exact fun _ _ => rfl
  | succ n ih =>
    intro p hp
    have hbit : inBit t p = inBit s p := by
      rw [inBit, inBit, h.same.input (p / 8) (by rw [← h.left.bound]; omega)]
    rw [Machine.fieldAt, Machine.fieldAt, hbit, ih (p + 1) (by omega)]

/-- Bits consumed of both. -/
def Advanced (s t u v : State) : Prop := ∃ m, Consumed m s u ∧ Consumed m t v

theorem StreamTwins.advance (h : StreamTwins s t) (ha : Advanced s t u v) : StreamTwins u v := by
  obtain ⟨m, hu, hv⟩ := ha
  refine ⟨h.left.ofReader hu.same hu.ok, h.right.ofReader hv.same hv.ok, ?_, h.same.advance h.running hu hv⟩
  rw [hu.same]; exact h.running

theorem StreamTwins.stay (h : StreamTwins s t) : Advanced s t s t :=
  ⟨0, ⟨.refl s, rfl, h.left.reader⟩, ⟨.refl t, rfl, h.right.reader⟩⟩

/-- BR.GET_VALUE gives the same value, or raises in both. -/
theorem StreamTwins.getValue (h : StreamTwins s t) (hn : n ≤ 25) :
    (brGetValue n s).Both (Advanced s t) (brGetValue n t) := by
  by_cases hb : Available n s
  · have hbt : Available n t := by rw [Available, h.pos, h.size]; exact hb
    obtain ⟨u, hu, hcu⟩ := getValue_consumed h.left.reader hn hb
    obtain ⟨v, hv, hcv⟩ := getValue_consumed h.right.reader hn hbt
    rw [hu, hv, h.pos, h.fieldAt n s.pos hb]
    exact .ok _ ⟨n, hcu, hcv⟩
  · have hbt : ¬ Available n t := by rw [Available, h.pos, h.size]; exact hb
    rw [getValue_short h.left.reader.inv (by omega) hb, getValue_short h.right.reader.inv (by omega) hbt]
    exact .raised _ h.stay

theorem Advanced.trans {s' t' : State} (h1 : Advanced s t u v) (h2 : Advanced u v s' t') : Advanced s t s' t' :=
  have ⟨m, hu, hv⟩ := h1
  have ⟨n, hs, ht⟩ := h2
  ⟨m + n, hu.trans hs, hv.trans ht⟩

theorem StreamTwins.readByte (h : StreamTwins s t) : (brReadByte s).Both (Advanced s t) (brReadByte t) :=
  (h.getValue (by decide)).bind fun _ _ _ ha => .ok _ ha

/-- HT.DECODE_SYMBOL with the same tree finds the same code. -/
theorem StreamTwins.htMatchLoop (T : TreeStore) (fuel : Nat) : ∀ (L c : Nat) {s t : State}, StreamTwins s t →
    (htMatchLoop T fuel L c s).Both (Advanced s t) (htMatchLoop T fuel L c t) := by
  induction fuel with
  | zero => exact fun _ _ _ _ h => .raised _ h.stay
  | succ fuel ih =>
    intro L c s t h
    refine (h.getValue (by decide)).bind fun b u v ha => ?_
    cases T.lookup (L + 1) (2 * c + b) with
    | some sym => exact .ok _ ha
    | none => exact (ih _ _ (h.advance ha)).imp fun _ _ => ha.trans

theorem StreamTwins.htMatch (h : StreamTwins s t) {X : TreeId} (hX : t.tree X = s.tree X) :
    (htMatch X s).Both (Advanced s t) (htMatch X t) := by
  unfold Machine.htMatch
  rw [hX]
  exact ite_related .rfl (fun _ => htMatchLoop _ _ _ _ h) fun _ => .refused _

theorem StreamTwins.putOut (h : StreamTwins s t) (b : Byte) (hr : s.outOffset.toNat < s.outCapacity.toNat) :
    StreamTwins (putOut b s) (putOut b t) := by
  have hlt := s.outCapacity.isLt
  obtain ⟨⟨-, hoff, hcap⟩, -⟩ := h.same.callRegs
  exact ⟨h.left.putOut b hr, h.right.putOut b (by rw [hoff, hcap]; exact hr), h.running, h.same.putOut b (by omega)⟩

/-- The data of a stored block. -/
theorem StreamTwins.storedLoop (k : Nat) (h : StreamTwins s t) (hr : s.outOffset.toNat + k ≤ s.outCapacity.toNat) :
    (storedLoop k s).Both StreamTwins (storedLoop k t) := by
  induction k generalizing s t with
  | zero => exact .ok _ h
  | succ k ih =>
    refine h.readByte.bind (fun b u v ha => ?_) fun _ _ => h.advance
    have huv := h.advance ha
    obtain ⟨m, hu, -⟩ := ha
    have huo : u.outOffset = s.outOffset := by rw [hu.same]
    have huc : u.outCapacity = s.outCapacity := by rw [hu.same]
    have hlt := s.outCapacity.isLt
    refine ih (huv.putOut b (by rw [huo, huc]; omega)) ?_
    rw [putOut_offset (by rw [huo]; omega), putOut_outCapacity, huo, huc]
    omega

/-- The copy of a back-reference. -/
theorem StreamTwins.copyLoop (h : StreamTwins s t) {k d : Nat} (h1 : 1 ≤ d) (hd : d ≤ s.outOffset.toNat)
    (hr : s.outOffset.toNat + k ≤ s.outCapacity.toNat) : StreamTwins (copyLoop k d s) (copyLoop k d t) := by
  have hlt := s.outCapacity.isLt
  obtain ⟨⟨-, hoff, hcap⟩, -⟩ := h.same.callRegs
  refine ⟨copyLoop_streamOk h.left h1 hd hr,
    copyLoop_streamOk h.right h1 (hoff ▸ hd) (by rw [hoff, hcap]; exact hr), ?_, h.same.copyLoop k h1 hd (by omega)⟩
  rw [copyLoop_sameButOut]; exact h.running

/-! ## The fetch -/

theorem StreamTwins.peekField (h : StreamTwins s t) {f : Format} (hf : f.width ≤ 25) : peekField f t = peekField f s :=
  (h.getValue hf).peek _

theorem StreamTwins.peekStored (h : StreamTwins s t) : peekStored t = peekStored s := by
  rw [peekStored_eq h.left.reader, peekStored_eq h.right.reader, h.pos, h.size]
  split
  · rw [h.fieldAt 32 _ ‹_›]
  · rfl

theorem StreamTwins.peekTrailer (h : StreamTwins s t) : peekTrailer t = peekTrailer s := by
  have hsize := h.left.bound
  rw [peekTrailer_eq h.left.reader, peekTrailer_eq h.right.reader, h.pos, h.size]
  split
  · have hread (i : Nat) (hi : i < 4) : memReadIn (alignUp s.pos / 8 + i) t = memReadIn (alignUp s.pos / 8 + i) s :=
      h.same.input _ (by rw [← hsize]; omega)
    simp only [bytesBelow, Nat.add_assoc, Nat.reduceAdd, hread 1 (by decide), hread 2 (by decide), hread 3 (by decide)]
    rw [show alignUp s.pos / 8 = alignUp s.pos / 8 + 0 from rfl, hread 0 (by decide)]
  · rfl

theorem StreamTwins.codeInstr (h : StreamTwins s t) {X : TreeId} (hX : t.tree X = s.tree X) :
    codeInstr X t = codeInstr X s := by
  have hm := h.htMatch hX
  unfold Machine.codeInstr
  generalize Machine.htMatch X s = x, Machine.htMatch X t = y at hm
  cases hm <;> rfl

/-- In HEADER the two bytes of IN are the same. -/
theorem SameCourse.peekHeader (h : SameCourse s t) : peekHeader t = peekHeader s := by
  obtain ⟨⟨hsize, -⟩, -⟩ := h.callRegs
  unfold Machine.peekHeader
  rw [hsize]
  split
  · rfl
  · rw [h.input 0 (by omega)]
    split
    · rfl
    · rw [h.input 1 (by omega)]

end Streams

end Sys2Proof.Machine
end

section
/-! Two calls on the same input: the rows of a Huffman block end alike. -/

namespace Sys2Proof.Machine

/-! ## Two states at one place -/

/-- Two states at one place of a Huffman block whose rows that follow are the same. -/
structure BlockTwins (p : Place) (s t : State) : Prop where
  left : InBlock p s
  right : InBlock p t
  same : SameCourse s t

section Block
variable {p q : Place} {s t s' t' u v : State} {n : Nat}

theorem BlockTwins.streams (h : BlockTwins p s t) : StreamTwins s t :=
  ⟨h.left.streamOk, h.right.streamOk, inStream_of_inHuffmanBlock h.left.running, h.same⟩

theorem BlockTwins.samePlace (h : BlockTwins p s t) : SamePlace p s t := by
  have hplace := (h.same.place h.left.running).2
  rwa [h.left.at_place] at hplace

theorem BlockTwins.advance (h : BlockTwins p s t) (ha : Advanced s t u v) : BlockTwins p u v := by
  have hsame := (h.streams.advance ha).same
  obtain ⟨m, hu, hv⟩ := ha
  exact ⟨h.left.consumed hu, h.right.consumed hv, hsame⟩

theorem BlockTwins.getValue (h : BlockTwins p s t) (hn : n ≤ 25) :
    (brGetValue n s).Both (BlockTwins p) (brGetValue n t) :=
  (h.streams.getValue hn).imp fun _ _ => h.advance

/-- Both go on to a place of the block, with the same in what it needs. -/
theorem StreamTwins.goto (h : StreamTwins s t) (hsame : SamePlace q s' t') (hs : s'.streamView = s.streamView := by rfl)
    (ht : t'.streamView = t.streamView := by rfl) (hqs : s'.seqView = s.seqView := by rfl)
    (hqt : t'.seqView = t.seqView := by rfl) (hps : s'.place = q := by rfl) (hpt : t'.place = q := by rfl) :
    SameCourse s' t' :=
  h.update (by rw [hqs, hqt, h.same.seq]) (fun _ => ⟨by rw [hps, hpt], by rw [hps]; exact hsame⟩) hs ht

/-- A row of a field and what it does with its value. -/
theorem BlockTwins.element (h : BlockTwins p s t) (hn : n ≤ 25) {f : Nat → State → State}
    (hf : ∀ e u v, BlockTwins p u v → SameCourse (f e u) (f e v)) :
    OutcomesAgree SameCourse ((brGetValue n s).outcomeWith f) ((brGetValue n t).outcomeWith f) :=
  (h.getValue hn).completes hf fun _ _ huv => huv.same

/-! ## The tree description of a dynamic block -/

theorem execDynhdr_twin (hlit hdist : BitVec 5) (hclen : BitVec 4) (h : BlockTwins .dynhdr s t) :
    OutcomesAgree SameCourse (execDynhdr hlit hdist hclen s) (execDynhdr hlit hdist hclen t) := by
  refine ((h.getValue (by decide)).bind (fun _ u v huv => ?_) fun _ _ huv => huv.same).outcome
  refine ite_related .rfl (fun _ => .raised _ ?_) fun _ => ?_
  · exact huv.streams.goto (q := .dynhdr) trivial (hps := huv.left.at_place) (hpt := huv.right.at_place)
  · exact .ok _ (huv.streams.goto (q := .prelen 0) (And.intro rfl (absurd rfl)))

/-- The pre-code's lengths are the same after each PRELEN: the first clears them (42_deflate_framing.md R182). -/
theorem BlockTwins.storePreLength {i : Nat} (h : BlockTwins (.prelen i) s t) (length : BitVec 3) :
    (storePreLength i length t).preLengths = (storePreLength i length s).preLengths := by
  obtain ⟨-, hlengths⟩ := h.samePlace
  unfold Machine.storePreLength
  by_cases hi : i = 0
  · simp only [if_pos hi]
  · simp only [if_neg hi, hlengths hi]

theorem htBuild_preCodeLengths (s : State) :
    htBuild .pre (preCodeLengths s) s = .ok () (s.setTree .pre (buildTree (preCodeLengths s))) :=
  htBuild_ok s (preCodeLengths_le s) (by rw [preCodeLengths_length]; decide)

theorem execPrelen_twin {i : Nat} (length : BitVec 3) (h : BlockTwins (.prelen i) s t) :
    OutcomesAgree SameCourse (execPrelen length s) (execPrelen length t) := by
  refine ((h.getValue (by decide)).bind (fun _ u v huv => ?_) fun _ _ huv => huv.same).outcome
  have hpre := huv.storePreLength length
  obtain ⟨hcounts, -⟩ := huv.samePlace
  have hcount : (Machine.storePreLength i length v).numCodeLengthCodes
      = (Machine.storePreLength i length u).numCodeLengthCodes := congrArg (·.2.2) hcounts
  have htree : preCodeLengths (Machine.storePreLength i length v)
      = preCodeLengths (Machine.storePreLength i length u) := by
    rw [preCodeLengths, preCodeLengths, hpre]
  simp only [huv.left.at_place, huv.right.at_place, Place.prelenIndex]
  refine ite_related (by rw [hcount])
    (fun _ => .ok _ (huv.streams.goto (q := .prelen (i + 1)) (And.intro hcounts fun _ => hpre))) fun _ => ?_
  rw [htBuild_preCodeLengths, htBuild_preCodeLengths, Res.bind_ok, Res.bind_ok, htree]
  exact .ok _ (huv.streams.goto (q := .clCode)
    (And.intro ⟨hcounts, rfl, fun _ _ h0 => absurd h0 (Nat.not_lt_zero _)⟩ rfl))

theorem SameLengths.total (h : SameLengths s t) : t.totalLengths = s.totalLengths := by
  obtain ⟨hcounts, -⟩ := h
  simp only [State.countsView, Prod.mk.injEq] at hcounts
  obtain ⟨hlit, hdist, -⟩ := hcounts
  rw [State.totalLengths, State.totalLengths, hlit, hdist]

theorem SameLengths.previousLength (h : SameLengths s t) (h0 : s.clIndex ≠ 0) (hi : s.clIndex.toNat < 316) :
    previousLength t = previousLength s := by
  obtain ⟨-, hidx, hentry⟩ := h
  have hpos : s.clIndex.toNat ≠ 0 := fun hz => h0 (BitVec.eq_of_toNat_eq hz)
  have hlt : s.clIndex.toNat - 1 < 316 := by omega
  rw [Machine.previousLength, Machine.previousLength, hidx, Vector.getElem?_eq_getElem hlt,
    Vector.getElem?_eq_getElem hlt, hentry _ hlt (by omega)]

theorem BlockTwins.clSym_bounds (h : BlockTwins .clSym s t) :
    s.clIndex.toNat < s.totalLengths ∧ s.totalLengths ≤ 316 := by
  obtain ⟨-, hcounts, hidx, -⟩ := (placeOk_clSym h.left.at_place).1 h.left.placeOk
  exact ⟨hidx, hcounts.total_le⟩

/-- The same lengths appended in both. -/
theorem BlockTwins.codeLengthLoop (h : BlockTwins .clSym s t) {r : Nat} (val : BitVec 4)
    (hr : s.clIndex.toNat + r ≤ s.totalLengths) :
    SameCourse (codeLengthLoop (appendLengths r val s)) (codeLengthLoop (appendLengths r val t)) := by
  obtain ⟨hsame, htree, -⟩ := h.samePlace
  have htotal := hsame.total
  obtain ⟨hcounts, hidx, hentry⟩ := hsame
  obtain ⟨-, hle⟩ := h.clSym_bounds
  obtain ⟨hs, hes⟩ := codeLengthLoop_appendLengths r val hr hle
  obtain ⟨ht, het⟩ := codeLengthLoop_appendLengths r val (s := t) (by rw [hidx, htotal]; exact hr)
    (by rw [htotal]; exact hle)
  rw [hidx, htotal] at ht
  rw [hidx] at het
  generalize (Machine.codeLengthLoop (appendLengths r val s)).codeLengths = ls at hs hes
  generalize (Machine.codeLengthLoop (appendLengths r val t)).codeLengths = lt at ht het
  have hentries (j : Nat) (hj : j < 316) (hlt : j < (BitVec.ofNat 9 (s.clIndex.toNat + r)).toNat) : lt[j] = ls[j] := by
    rw [BitVec.toNat_ofNat, Nat.mod_eq_of_lt (by omega)] at hlt
    rw [hes, het]
    split
    · rfl
    · exact hentry j hj (by omega)
  rw [hs, ht]
  by_cases hmore : s.clIndex.toNat + r < s.totalLengths
  · rw [if_pos hmore]
    exact h.streams.goto (q := .clCode) (And.intro ⟨hcounts, rfl, hentries⟩ htree)
  · rw [if_neg hmore]
    exact h.streams.goto (q := .dyntrees) ⟨hcounts, rfl, hentries⟩

/-- A repeat after its extra bits (42_deflate_framing.md R185, R187, R188). -/
theorem repeatRow_twin (h : BlockTwins .clSym s t) (hn : n ≤ 25) (count : Nat → Nat) {val : State → BitVec 4}
    (hval : ∀ u v, BlockTwins .clSym u v → u.clIndex = s.clIndex → val v = val u) :
    ((brGetValue n s).bind fun e u => repeatLength (count e) (val u) u).Both SameCourse
      ((brGetValue n t).bind fun e u => repeatLength (count e) (val u) u) := by
  refine (h.streams.getValue hn).bind (fun e u v ha => ?_) fun _ _ ha => (h.advance ha).same
  have huv := h.advance ha
  obtain ⟨m, hu, -⟩ := ha
  have hsame := huv.samePlace.1
  rw [hval u v huv (by rw [hu.same])]
  exact ite_related (by rw [hsame.total, hsame.2.1]) (fun _ => .raised _ huv.same) fun hfits =>
    .ok _ (huv.codeLengthLoop _ (Nat.not_lt.1 hfits))

theorem clsymRow_twin (h : BlockTwins .clSym s t) {w : Nat} {i : Instr} (hi : decodeClsym w = some i) :
    OutcomesAgree SameCourse (exec i s) (exec i t) := by
  obtain ⟨hidx, hle⟩ := h.clSym_bounds
  have hsame := h.samePlace.1
  unfold decodeClsym at hi
  split at hi
  · cases hi
    exact .next (h.codeLengthLoop (r := 1) _ hidx)
  · split at hi <;> cases hi
    · refine Res.Both.outcome (ite_related (by rw [hsame.2.1]) (fun _ => .raised _ h.same) fun h0 => ?_)
      refine repeatRow_twin h (by decide) (3 + ·) fun u v huv hu => huv.samePlace.1.previousLength (hu ▸ h0) ?_
      rw [hu]; omega
    · exact (repeatRow_twin h (by decide) (3 + ·) fun _ _ _ _ => rfl).outcome
    · exact (repeatRow_twin h (by decide) (11 + ·) fun _ _ _ _ => rfl).outcome

theorem SameLengths.codeLengthsFrom (h : SameLengths s t) {first : Nat} (hi : first + n ≤ s.clIndex.toNat)
    (hle : s.clIndex.toNat ≤ 316) : codeLengthsFrom first n t = codeLengthsFrom first n s := by
  obtain ⟨-, -, hentry⟩ := h
  refine List.map_congr_left fun j hj => ?_
  have hj := List.mem_range.1 hj
  have hlt : first + j < 316 := by omega
  rw [codeLengthAt_eq, codeLengthAt_eq, dif_pos hlt, dif_pos hlt, hentry _ hlt (by omega)]

theorem execDyntrees_twin (h : BlockTwins .dyntrees s t) :
    OutcomesAgree SameCourse (exec .dyntrees s) (exec .dyntrees t) := by
  obtain ⟨-, hlegal, hidx⟩ := (placeOk_dyntrees h.left.at_place).1 h.left.placeOk
  have hsame : SameLengths s t := h.samePlace
  have hlit := hlegal.lit
  have hle := hlegal.total_le
  have hsum : s.totalLengths = s.numLiteralCodes.toNat + s.numDistanceCodes.toNat := rfl
  have hl := hsame.codeLengthsFrom (first := 0) (n := s.numLiteralCodes.toNat) (by omega) (by omega)
  have hd := hsame.codeLengthsFrom (first := s.numLiteralCodes.toNat) (n := s.numDistanceCodes.toNat) (by omega)
    (by omega)
  obtain ⟨hcounts, -, hentry⟩ := hsame
  simp only [State.countsView, Prod.mk.injEq] at hcounts
  obtain ⟨hnl, hnd, -⟩ := hcounts
  have heob := hentry 256 (by decide) (by omega)
  rw [exec_dyntrees, exec_dyntrees, heob, hnl, hnd, hl, hd]
  by_cases hno : s.codeLengths[256] = 0
  · rw [if_pos hno, if_pos hno]
    exact .error _ h.same
  · rw [if_neg hno, if_neg hno]
    exact .next (h.streams.goto (q := .litCode) fun _ => ⟨rfl, rfl⟩)

/-! ## The bits-to-symbol stage -/

/-- The symbol goes to its register (30_encoding.md R106). -/
theorem BlockTwins.latch (h : BlockTwins p s t) (hc : p.isCode = true) (k : Nat) :
    OutcomesAgree SameCourse (.next (latchSymbol p (setResult k s))) (.next (latchSymbol p (setResult k t))) := by
  have hsame := h.samePlace
  have hes : (setResult k s).seqState ≠ .error := h.left.not_error
  have het : (setResult k t).seqState ≠ .error := h.right.not_error
  cases p with
  | clCode =>
    rw [latchSymbol_clCode hes, latchSymbol_clCode het]
    exact .next (h.streams.goto (q := .clSym) (And.intro hsame.1 ⟨hsame.2, rfl⟩))
  | litCode =>
    rw [latchSymbol_litCode hes, latchSymbol_litCode het]
    exact .next (h.streams.goto (q := .litSym) (And.intro hsame rfl))
  | distCode =>
    rw [latchSymbol_distCode hes, latchSymbol_distCode het]
    by_cases hk : 32 ≤ (setResult k s).unitResult
    · rw [if_pos hk, if_pos (show 32 ≤ (setResult k t).unitResult from hk)]
      exact .error _ (h.streams.goto (q := .distCode) hsame (hps := h.left.at_place) (hpt := h.right.at_place))
    · rw [if_neg hk, if_neg (show ¬32 ≤ (setResult k t).unitResult from hk)]
      exact .next (h.streams.goto (q := .distSym) (And.intro hsame.1 ⟨hsame.2, rfl⟩))
  | _ => cases hc

/-- The row of a code is HT.DECODE_SYMBOL and its symbol (`codeRowsAgreeWithDecodeSymbol`). -/
theorem exec_codeInstr (X : TreeId) (s : State) :
    exec (codeInstr X s) s = (htMatch X s).outcomeWith fun m => setResult m.symbol.toNat :=
  (codeRowsAgreeWithDecodeSymbol X s).1

/-- A bits-to-symbol row and the latch of its symbol, with the same tree. -/
theorem codeRow_twin {X : TreeId} (h : BlockTwins p s t) (hc : p.isCode = true) (hX : t.tree X = s.tree X) :
    OutcomesAgree SameCourse (mapNext (exec (codeInstr X s) s) (afterRow s))
      (mapNext (exec (codeInstr X s) t) (afterRow t)) := by
  have hmatch := (h.streams.htMatch hX).imp fun _ _ => h.advance
  have ht := exec_codeInstr X t
  rw [h.streams.codeInstr hX] at ht
  rw [exec_codeInstr, ht]
  generalize htMatch X s = x, htMatch X t = y at hmatch
  cases hmatch with
  | ok m huv =>
    show OutcomesAgree _ (.next (afterRow s _)) (.next (afterRow t _))
    rw [afterRow_inBlock h.left, afterRow_inBlock h.right]
    exact huv.latch hc _
  | raised e huv =>
    show OutcomesAgree _ (.next (afterRow s _)) (.next (afterRow t _))
    rw [afterRow_takeError, afterRow_takeError]
    exact .error e huv.same
  | refused r => exact .refused r

/-! ## The symbol loop -/

theorem lengthElement_twin {k : Nat} (hk : k < 29) (h : BlockTwins .litSym s t) :
    OutcomesAgree SameCourse (lengthElement k s) (lengthElement k t) :=
  h.element (len_range k hk).1 fun _ _ _ huv => huv.streams.goto (q := .distCode) (And.intro huv.samePlace.1 rfl)

theorem execLit_twin (byte : Byte) (h : BlockTwins .litSym s t) :
    OutcomesAgree SameCourse (execLit byte s) (execLit byte t) := by
  obtain ⟨⟨-, hoff, hcap⟩, -⟩ := h.same.callRegs
  refine ite_related (by rw [hoff, hcap]) (fun _ => .error _ h.same) fun hr => .next ?_
  exact (h.streams.putOut byte (Nat.not_le.1 hr)).goto (q := .litCode) h.samePlace.1

theorem litlenRow_twin (h : BlockTwins .litSym s t) {w : Nat} {i : Instr} (hi : decodeLitlen w = some i) :
    OutcomesAgree SameCourse (exec i s) (exec i t) := by
  unfold decodeLitlen at hi
  split at hi
  · cases hi; exact execLit_twin _ h
  · split at hi
    · cases hi; exact .next h.streams.endOfBlock
    · split at hi
      · obtain ⟨hk, he⟩ := exec_lenInstr hi
        rw [he, he]
        exact lengthElement_twin hk h
      · split at hi
        · cases hi; exact .error _ h.same
        · split at hi <;> cases hi
          exact .error _ h.same

theorem distRow_twin (h : BlockTwins .distSym s t) {w : Nat} {i : Instr} (hi : decodeDist w = some i) :
    OutcomesAgree SameCourse (exec i s) (exec i t) := by
  by_cases hw : w < 30
  · rw [exec_decodeDist hi hw, exec_decodeDist hi hw]
    exact h.element (dist_range w hw).1 fun _ _ _ huv =>
      huv.streams.goto (q := .matchCopy) (And.intro huv.samePlace.1 ⟨huv.samePlace.2.1, rfl⟩)
  · rw [exec_decodeDist_reserved hi hw, exec_decodeDist_reserved hi hw]
    exact .error _ h.same

theorem SameTrees.copyLoop (h : SameTrees s t) (k d : Nat) : SameTrees (copyLoop k d s) (copyLoop k d t) := by
  rw [copyLoop_sameButOut k d s, copyLoop_sameButOut k d t]; exact h

theorem execMatchCopy_twin (h : BlockTwins .matchCopy s t) :
    OutcomesAgree SameCourse (execMatchCopy s) (execMatchCopy t) := by
  obtain ⟨-, -, -, hdist, -⟩ := (placeOk_matchCopy h.left.at_place).1 h.left.placeOk
  obtain ⟨htrees, hlength, hdistance⟩ := h.samePlace
  obtain ⟨⟨-, hoff, hcap⟩, -⟩ := h.same.callRegs
  have hcopy : (backReference s.length.toNat s.distance.toNat s).Both
      (fun u v => SameCourse u v ∧ SameCourse (goto .litCode u) (goto .litCode v))
      (backReference s.length.toNat s.distance.toNat t) := by
    have hraised : SameCourse (goto .litCode s) (goto .litCode t) := h.streams.goto (q := .litCode) htrees
    refine ite_related (by rw [hoff]) (fun _ => .raised _ ⟨h.same, hraised⟩) fun hd => ?_
    refine ite_related (by rw [hoff, hcap]) (fun _ => .raised _ ⟨h.same, hraised⟩) fun hroom => ?_
    rw [if_neg (by omega), if_neg (by omega)]
    have hput := h.streams.copyLoop hdist (Nat.not_lt.1 hd) (Nat.not_lt.1 hroom)
    exact .ok _ ⟨hput.same, hput.goto (q := .litCode) (htrees.copyLoop _ _)⟩
  unfold execMatchCopy
  rw [hlength, hdistance]
  exact hcopy.completes (fun _ _ _ huv => huv.2) fun _ _ huv => huv.1

end Block

end Sys2Proof.Machine
end

section
/-! Two calls on the same input: every row of the engine ends alike, and so do the calls (44_decompress_top.md R232). -/

namespace Sys2Proof.Machine

/-! ## The rows outside a Huffman block -/

section Rows
variable {s t u v : State}

theorem zhdrRow_twin (b0 b1 : Byte) (h : SameCourse s t) (hsize : 1 ≤ s.inSize.toNat) :
    OutcomesAgree SameCourse (exec (decodeZhdr (b0.toNat + 256 * b1.toNat)) s)
      (exec (decodeZhdr (b0.toNat + 256 * b1.toNat)) t) := by
  obtain ⟨-, hlast, htype⟩ := h.seqRegs
  obtain ⟨⟨hin, -, hcap⟩, herr, hcount⟩ := h.callRegs
  rw [exec_decodeZhdr b0 b1 hsize, exec_decodeZhdr b0 b1 (hin ▸ hsize), hin]
  have go (c : Prop) [Decidable c] (e : ErrorKind) {x y : State}
      (hxy : OutcomesAgree SameCourse (.next x) (.next y)) :
      OutcomesAgree SameCourse (.next (if c then takeError e s else x)) (.next (if c then takeError e t else y)) :=
    ite_related (R := fun x y => OutcomesAgree SameCourse (.next x) (.next y)) .rfl (fun _ => .error e h) fun _ => hxy
  refine go _ _ (go _ _ (go _ _ (go _ _ (.next ?_))))
  refine ⟨?_, ?_, fun _ => rfl, h.input, fun a ha => h.output a (.inr (ha.resolve_left (Nat.not_lt_zero a))), nofun⟩
  · simp only [State.seqView, brInit, hlast, htype]
  · simp only [State.callView, brInit, hin, hcap, herr, hcount]

/-- The block header's 3 bits are consumed in both, and the flags set. -/
theorem blockHeader_twin (last : Bool) (type : BitVec 2) (h : StreamTwins s t) (hq : s.seqState = .expectBlockHeader) :
    (blockHeader last type s).Both StreamTwins (blockHeader last type t) := by
  refine (h.getValue (by decide)).bind (fun _ u v ha => .ok _ ?_) fun _ _ => h.advance
  have huv := h.advance ha
  obtain ⟨m, hu, -⟩ := ha
  have hqu : u.seqState = .expectBlockHeader := by rw [hu.same]; exact hq
  refine ⟨huv.left.congr, huv.right.congr, huv.running, huv.update ?_ fun hb => ?_⟩
  · exact congrArg (·, last, type) huv.same.seqRegs.1
  · simp [State.inHuffmanBlock, hqu] at hb

/-- The block is entered in both. -/
theorem enterBlock_twin (last : Bool) (type : BitVec 2) (h : StreamTwins s t) (hq : s.seqState = .expectBlockHeader)
    {f : State → State}
    (hplace : ∀ u v, (f u).inHuffmanBlock = true → (f v).place = (f u).place ∧ SamePlace (f u).place (f u) (f v))
    (hview : ∀ u, (f u).streamView = u.streamView := by exact fun _ => rfl)
    (hseq : ∀ u v, (v.lastBlockFlag, v.blockType) = (u.lastBlockFlag, u.blockType) → (f v).seqView = (f u).seqView := by
      exact fun _ _ h => congrArg (_, ·) h) :
    OutcomesAgree SameCourse ((blockHeader last type s).outcomeWith fun _ => f)
      ((blockHeader last type t).outcomeWith fun _ => f) :=
  (blockHeader_twin last type h hq).completes
    (fun _ u v huv => huv.update (hseq u v (congrArg Prod.snd huv.same.seq)) (hplace u v) (hview u) (hview v))
    fun _ _ huv => huv.same

theorem bhdrRow_twin (w : Nat) (h : StreamTwins s t) (hq : s.seqState = .expectBlockHeader) :
    OutcomesAgree SameCourse (exec (decodeBhdr w) s) (exec (decodeBhdr w) t) := by
  unfold decodeBhdr
  generalize (bits w 0 1 == 1) = last
  dsimp only
  split
  · exact enterBlock_twin last 0 h hq fun _ _ hb => absurd hb (by simp [State.inHuffmanBlock])
  · exact enterBlock_twin last 1 h hq fun _ _ _ => ⟨rfl, nofun⟩
  · exact enterBlock_twin last 2 h hq fun _ _ _ => ⟨rfl, trivial⟩
  · exact ((blockHeader_twin last 3 h hq).bind (fun _ _ _ huv => .raised _ huv.same) fun _ _ huv => huv.same).outcome

theorem atByte_pos (h : StreamTwins s t) (k : Nat) :
    (atByte (alignUp t.pos / 8 + k) t).pos = (atByte (alignUp s.pos / 8 + k) s).pos := by
  rw [h.pos]; rfl

theorem execStored_twin (len nlen : BitVec 16) (h : StreamTwins s t)
    (hb : alignUp s.pos + 32 ≤ 8 * s.byteStreamSize.toNat) :
    OutcomesAgree SameCourse (exec (.stored len nlen) s) (exec (.stored len nlen) t) := by
  obtain ⟨hs, hoks⟩ := exec_stored_fields (len := len) (nlen := nlen) h.left.reader hb
  obtain ⟨ht, hokt⟩ := exec_stored_fields (len := len) (nlen := nlen) h.right.reader (by rw [h.pos, h.size]; exact hb)
  have hfields : StreamTwins (afterStoredFields len nlen s) (afterStoredFields len nlen t) :=
    ⟨⟨h.left.inForm, h.left.outForm, hoks, h.left.bound, h.left.room, h.left.clean⟩,
      ⟨h.right.inForm, h.right.outForm, hokt, h.right.bound, h.right.room, h.right.clean⟩, h.running,
      h.same.update h.same.seq (fun _ => atByte_pos h 4) h.same.place⟩
  have hleft : brRemainingBytes (afterStoredFields len nlen t) = brRemainingBytes (afterStoredFields len nlen s) := by
    rw [remainingBytes_aligned hoks.inv rfl, remainingBytes_aligned hokt.inv rfl, hfields.pos, hfields.size]
  have hlen : (afterStoredFields len nlen t).storedLen = (afterStoredFields len nlen s).storedLen := rfl
  have hnlen : (afterStoredFields len nlen t).storedNlen = (afterStoredFields len nlen s).storedNlen := rfl
  rw [hs, ht]
  generalize afterStoredFields len nlen s = u, afterStoredFields len nlen t = v at hfields hleft hlen hnlen
  obtain ⟨⟨-, hoff, hcap⟩, -⟩ := hfields.same.callRegs
  refine Res.Both.outcome ?_
  unfold storedData
  rw [hlen, hnlen, hoff, hcap, hleft]
  refine ite_related .rfl (fun _ => .raised _ hfields.same) fun _ => ?_
  refine ite_related .rfl (fun _ => .raised _ hfields.same) fun hroom => ?_
  refine ite_related .rfl (fun _ => .raised _ hfields.same) fun _ => ?_
  exact (hfields.storedLoop _ (Nat.not_lt.1 hroom)).bind (fun _ _ _ h4 => .ok _ h4.endOfBlock) fun _ _ h4 => h4.same

theorem SameCourse.outBytes (h : SameCourse s t) :
    outBytes t.outOffset.toNat t = outBytes s.outOffset.toNat s := by
  obtain ⟨⟨-, hoff, -⟩, -⟩ := h.callRegs
  rw [hoff]
  exact List.map_congr_left fun a ha => h.output a (.inl (List.mem_range.1 ha))

theorem execTrailer_twin (hi lo : BitVec 16) (h : StreamTwins s t)
    (hb : alignUp s.pos + 32 ≤ 8 * s.byteStreamSize.toNat) :
    OutcomesAgree SameCourse (exec (.trailer hi lo) s) (exec (.trailer hi lo) t) := by
  obtain ⟨q, rfl, hs⟩ := (trailerDecidesCall hi lo s _ _ h.left.reader rfl rfl).2 hb
  obtain ⟨r, rfl, ht⟩ := (trailerDecidesCall hi lo t _ _ h.right.reader rfl rfl).2 (by rw [h.pos, h.size]; exact hb)
  obtain ⟨⟨hin, hoff, hcap⟩, herr, -⟩ := h.same.callRegs
  rw [hs, ht, h.same.outBytes]
  refine ite_related (R := fun x y => OutcomesAgree SameCourse (.next x) (.next y)) .rfl (fun _ => .next ?_)
    fun _ => .error _ (h.same.update h.same.seq (fun _ => atByte_pos h 4) h.same.place)
  refine ⟨congrArg (SeqState.done, ·) (congrArg Prod.snd h.same.seq), ?_, nofun, h.same.input,
    fun a ha => h.same.output a (.inl (ha.elim id id)), nofun⟩
  simp only [State.callView, atByte, hin, hoff, hcap, herr]

end Rows

/-! ## One row of the engine -/

section Engine
variable {p : Place} {s t : State} {x y : Host.Outcome State Fault Refusal}

/-- The trees of the symbol loop (10_state.md R29) are the same. -/
theorem BlockTwins.treesInUse (h : BlockTwins p s t) (hT : SameTrees s t) :
    (t.litTreeInUse = s.litTreeInUse ∧ t.tree s.litTreeInUse = s.tree s.litTreeInUse) ∧
      t.distTreeInUse = s.distTreeInUse ∧ t.tree s.distTreeInUse = s.tree s.distTreeInUse := by
  obtain ⟨-, -, htype⟩ := h.same.seqRegs
  unfold State.litTreeInUse State.distTreeInUse
  rw [htype]
  obtain ⟨-, hk⟩ | ⟨hq, hk⟩ := h.left.kind
  · rw [hk]; exact ⟨⟨rfl, rfl⟩, rfl, rfl⟩
  · obtain ⟨hlit, hdist⟩ := hT hq
    rw [hk]; exact ⟨⟨rfl, hlit⟩, rfl, hdist⟩

/-- What comes next in a Huffman block is the same. -/
theorem BlockTwins.nextInBlock (h : BlockTwins p s t) : nextInBlock t = nextInBlock s := by
  have hsame := h.samePlace
  have code {X : TreeId} (hX : t.tree X = s.tree X) := congrArg Fetch.instr (h.streams.codeInstr hX)
  simp only [Machine.nextInBlock, h.left.at_place, h.right.at_place]
  cases p with
  | dynhdr => exact h.streams.peekField (by decide)
  | prelen i => exact h.streams.peekField (by decide)
  | clCode => exact code (X := .pre) hsame.2
  | clSym => exact congrArg (fun w : BitVec 9 => fetched .clsym5 w.toNat) hsame.2.2
  | litCode =>
    obtain ⟨⟨hX, htree⟩, -⟩ := h.treesInUse hsame
    dsimp only
    rw [hX]; exact code htree
  | litSym => exact congrArg (fun w : BitVec 9 => fetched .litlen9 w.toNat) hsame.2
  | distCode =>
    obtain ⟨-, hX, htree⟩ := h.treesInUse hsame.1
    dsimp only
    rw [hX]; exact code htree
  | distSym => exact congrArg (fun w : BitVec 5 => fetched .dist5 w.toNat) hsame.2.2
  | dyntrees | matchCopy => rfl

/-- A row to which the sequencer adds nothing. -/
theorem OutcomesAgree.afterRow (h : OutcomesAgree SameCourse x y) (hs : ∀ u, afterRow s u = u)
    (ht : ∀ u, afterRow t u = u) : OutcomesAgree SameCourse (mapNext x (afterRow s)) (mapNext y (afterRow t)) := by
  cases h with
  | next h => simp only [mapNext, hs, ht]; exact .next h
  | error e h => simp only [mapNext, hs, ht]; exact .error e h
  | refused r => exact .refused r

/-- A row of a Huffman block ends alike. -/
theorem BlockTwins.row (h : BlockTwins p s t) {i : Instr} (hi : Machine.nextInBlock s = .instr i) :
    OutcomesAgree SameCourse (mapNext (exec i s) (afterRow s)) (mapNext (exec i t) (afterRow t)) := by
  have hsame := h.samePlace
  have row (hc : p.isCode = false) (hx : OutcomesAgree SameCourse (exec i s) (exec i t)) :=
    hx.afterRow (afterRow_not_code (by rw [h.left.at_place]; exact hc))
      (afterRow_not_code (by rw [h.right.at_place]; exact hc))
  simp only [Machine.nextInBlock, h.left.at_place] at hi
  cases p with
  | dynhdr =>
    obtain ⟨w, hw⟩ := peekField_instr hi
    cases hw
    exact row rfl (execDynhdr_twin _ _ _ h)
  | prelen k =>
    obtain ⟨w, hw⟩ := peekField_instr hi
    cases hw
    exact row rfl (execPrelen_twin _ h)
  | clCode =>
    cases hi
    exact codeRow_twin (X := .pre) h rfl hsame.2
  | clSym => exact row rfl (clsymRow_twin h (fetched_instr hi))
  | dyntrees =>
    cases hi
    exact row rfl (execDyntrees_twin h)
  | litCode =>
    cases hi
    exact codeRow_twin h rfl (h.treesInUse hsame).1.2
  | litSym => exact row rfl (litlenRow_twin h (fetched_instr hi))
  | distCode =>
    cases hi
    exact codeRow_twin h rfl (h.treesInUse hsame.1).2.2
  | distSym => exact row rfl (distRow_twin h (fetched_instr hi))
  | matchCopy =>
    cases hi
    exact row rfl (execMatchCopy_twin h)

/-- Both do the same row next, and it ends alike. -/
theorem engineStep_agree_of_row (h : SameCourse s t) (hf : nextInstr t = nextInstr s)
    (hx : ∀ i, nextInstr s = .instr i →
      OutcomesAgree SameCourse (mapNext (exec i s) (afterRow s)) (mapNext (exec i t) (afterRow t))) :
    OutcomesAgree SameCourse (engineStep s) (engineStep t) := by
  unfold engineStep
  rw [hf]
  cases hi : nextInstr s with
  | instr i => exact hx i hi
  | raise e => exact .error e h
  | refuse r => exact .refused r
  | none => exact .next h

/-- One row of the engine ends alike, wherever the sequencer stands (44_decompress_top.md R222). -/
theorem engineStep_twin (hs : Inv s) (ht : Inv t) (h : SameCourse s t) (hb : s.busy = true) :
    OutcomesAgree SameCourse (engineStep s) (engineStep t) := by
  have hqt := h.seqRegs.1
  have streams (hst : s.inStream = true) : StreamTwins s t :=
    ⟨hs.streamOk hst, ht.streamOk (h.inStream.trans hst), hst, h⟩
  have outside (hh : s.inHuffmanBlock = false) {i : Instr} (hx : OutcomesAgree SameCourse (exec i s) (exec i t)) :=
    hx.afterRow (afterRow_outside_block hh) (afterRow_outside_block (h.inHuffmanBlock.trans hh))
  have block (hh : s.inHuffmanBlock = true) : BlockTwins s.place s t :=
    ⟨⟨hs, hh, rfl⟩, ⟨ht, h.inHuffmanBlock.trans hh, (h.place hh).1⟩, h⟩
  have fetch (hf : nextInstr t = nextInstr s) := engineStep_agree_of_row h hf
  cases hq : s.seqState with
  | idle | done | error => simp [State.busy, hq] at hb
  | header =>
    rw [hq] at hqt
    refine fetch (by simp only [nextInstr, hq, hqt, h.peekHeader]) fun i hi => ?_
    obtain ⟨hsize, b0, b1, rfl⟩ := nextInstr_header_instr hq hi
    exact outside (by simp [State.inHuffmanBlock, hq]) (zhdrRow_twin b0 b1 h hsize)
  | expectBlockHeader =>
    rw [hq] at hqt
    have hstreams := streams (by simp [State.inStream, hq])
    refine fetch (by simp only [nextInstr, hq, hqt, hstreams.peekField (f := .bhdr3) (by decide)]) fun i hi => ?_
    simp only [nextInstr, hq] at hi
    obtain ⟨w, hw⟩ := peekField_instr hi
    cases hw
    exact outside (by simp [State.inHuffmanBlock, hq]) (bhdrRow_twin w hstreams hq)
  | storedBlock =>
    rw [hq] at hqt
    have hstreams := streams (by simp [State.inStream, hq])
    refine fetch (by simp only [nextInstr, hq, hqt, hstreams.peekStored]) fun i hi => ?_
    simp only [nextInstr, hq] at hi
    obtain ⟨len, nlen, rfl⟩ := peekStored_instr hi
    refine outside (by simp [State.inHuffmanBlock, hq]) (execStored_twin len nlen hstreams ?_)
    by_contra hshort
    rw [peekStored_eq hstreams.left.reader, if_neg hshort] at hi
    cases hi
  | trailer =>
    rw [hq] at hqt
    have hstreams := streams (by simp [State.inStream, hq])
    refine fetch (by simp only [nextInstr, hq, hqt, hstreams.peekTrailer]) fun i hi => ?_
    simp only [nextInstr, hq] at hi
    obtain ⟨hiHalf, loHalf, rfl⟩ := peekTrailer_instr hi
    refine outside (by simp [State.inHuffmanBlock, hq]) (execTrailer_twin hiHalf loHalf hstreams ?_)
    by_contra hshort
    rw [peekTrailer_eq hstreams.left.reader, if_neg hshort] at hi
    cases hi
  | fixedHuffmanBlock | dynamicHuffmanBlock =>
    rw [hq] at hqt
    have hblock := block (by simp [State.inHuffmanBlock, hq])
    refine fetch (by simp only [nextInstr, hq, hqt, hblock.nextInBlock]) fun i hi => hblock.row ?_
    simpa only [nextInstr, hq] using hi

end Engine

/-! ## Two calls -/

section Call
variable {s t : State}

/-- What the host reads after the two calls is the same (10_state.md R40). -/
def SameResult (s t : State) : Prop :=
  s.statusWord = t.statusWord ∧ s.errorCodeWord = t.errorCodeWord ∧ s.outCountWord = t.outCountWord ∧
    ∀ a, a < s.outCountWord.toNat → memReadOut a s = memReadOut a t

theorem SameCourse.result (h : SameCourse s t) : SameResult s t := by
  obtain ⟨hq, -⟩ := h.seqRegs
  obtain ⟨-, herr, hcount⟩ := h.callRegs
  refine ⟨by rw [State.statusWord, State.statusWord, hq], by rw [State.errorCodeWord, State.errorCodeWord, hq, herr],
    by rw [State.outCountWord, State.outCountWord, hq, hcount], fun a ha => (h.output a (.inr ?_)).symm⟩
  unfold State.outCountWord at ha
  split at ha
  · exact ha
  · exact absurd ha (Nat.not_lt_zero a)

/-- After an error the host reads its code only. -/
theorem takeError_result (e : ErrorKind) (s t : State) : SameResult (takeError e s) (takeError e t) :=
  ⟨rfl, rfl, rfl, fun a ha => absurd ha (Nat.not_lt_zero a)⟩

/-- The next states of two rows that end alike. -/
theorem OutcomesAgree.next_states {R : State → State → Prop} (h : OutcomesAgree R (.next s) (.next t)) :
    R s t ∨ ∃ e u v, s = takeError e u ∧ t = takeError e v := by
  generalize hx : (Host.Outcome.next s : Host.Outcome State Fault Refusal) = x,
    hy : (Host.Outcome.next t : Host.Outcome State Fault Refusal) = y at h
  cases h with
  | next h => cases hx; cases hy; exact .inl h
  | error e h => cases hx; cases hy; exact .inr ⟨e, _, _, rfl, rfl⟩
  | refused r => cases hx

theorem SameCourse.busy (h : SameCourse s t) : t.busy = s.busy := by
  unfold State.busy; rw [h.seqRegs.1]

/-- Two calls whose rows are the same end after the same steps, with the same result. -/
theorem callEnds_twin (n : Nat) {s t : State} (hs : Inv s) (ht : Inv t) (h : SameCourse s t) (hb : s.busy = true)
    (his : s.inputs = []) (hit : t.inputs = []) (hn : stepsLeft s ≤ n) :
    ∃ k u v, CallEndsIn k s u ∧ CallEndsIn k t v ∧ SameResult u v := by
  induction n generalizing s t with
  | zero => exact absurd (stepsLeft_pos hb) (by omega)
  | succ n ih =>
    obtain ⟨u, hu, hleft, -⟩ := engineStep_next hs hb
    obtain ⟨v, hv, -⟩ := engineStep_next ht (h.busy.trans hb)
    have hsu : step s = .next u := (step_of_no_inputs his).trans hu
    have htv : step t = .next v := (step_of_no_inputs hit).trans hv
    have hagree := engineStep_twin hs ht h hb
    rw [hu, hv] at hagree
    obtain huv | ⟨e, u', v', rfl, rfl⟩ := hagree.next_states
    · cases hbu : u.busy with
      | false => exact ⟨1, u, v, ⟨run_succ hsu 0, hbu⟩, ⟨run_succ htv 0, huv.busy.trans hbu⟩, huv.result⟩
      | true =>
        obtain ⟨k, u', v', ⟨hru, hbu'⟩, ⟨hrv, hbv'⟩, hres⟩ :=
          ih (stepKeepsInv s u hs hsu) (stepKeepsInv t v ht htv) huv hbu ((engineStep_inputs hu).trans his)
            ((engineStep_inputs hv).trans hit) (by omega)
        exact ⟨k + 1, u', v', ⟨(run_succ hsu k).trans hru, hbu'⟩, ⟨(run_succ htv k).trans hrv, hbv'⟩, hres⟩
    · exact ⟨1, _, _, ⟨run_succ hsu 0, rfl⟩, ⟨run_succ htv 0, rfl⟩, takeError_result e u' v'⟩

/-- Two calls start alike on the same input (70_reset_and_hazards.md R284). -/
theorem startCall_twin (hsize : s.inSize = t.inSize) (hcap : s.outCapacity = t.outCapacity)
    (hin : ∀ a, a < s.inSize.toNat → memReadIn a s = memReadIn a t) : SameCourse (startCall s) (startCall t) := by
  refine ⟨rfl, ?_, nofun, fun a ha => (hin a ha).symm, fun a ha => absurd ha ?_, nofun⟩
  · show ((t.inSize, _, t.outCapacity), _) = ((s.inSize, _, s.outCapacity), _)
    rw [hsize, hcap]; rfl
  · exact fun ha => ha.elim (Nat.not_lt_zero a) (Nat.not_lt_zero a)

end Call

/-- Settles O19: the calls start alike (`startCall_twin`), every row of the engine ends alike (`engineStep_twin`), and so
both end after the same steps with the same result (`callEnds_twin`). -/
theorem callDependsOnlyOnInput : Obligations.CallDependsOnlyOnInput := by
  intro s1 s2 x1 x2 h1 h2 hb1 hb2 hi1 hi2 hsize hcap hin
  have hgo1 := exec_decompress_start x1 hb1
  have hgo2 := exec_decompress_start x2 hb2
  obtain ⟨k, u, v, hu, hv, hstatus, hcode, hcount, hout⟩ :=
    callEnds_twin _ (execDecompress_inv x1 h1 _ hgo1) (execDecompress_inv x2 h2 _ hgo2)
      (startCall_twin hsize hcap hin) rfl hi1 hi2 le_rfl
  exact ⟨k, _, _, u, v, hgo1, hu, hgo2, hv, hstatus, hcode, hcount, hout⟩

end Sys2Proof.Machine
end

section
/-! The operations of the checksum unit on numbers (45_adler32_checksum.md): what one does to the registers, what keeps
the sums from wrapping between two reductions, and the value the unit returns for a byte sequence. -/

namespace Sys2Proof.Machine

/-! ## One operation on numbers -/

section Operations
variable {b : Byte} {s : State}

/-- A number that fits the register is read back as it is. -/
theorem toNat_ofNat_of_fits {w n : Nat} (h : n < 2 ^ w) : (BitVec.ofNat w n).toNat = n := by
  rw [BitVec.toNat_ofNat, Nat.mod_eq_of_lt h]

theorem adlerInit_eq (v : Word) (s : State) : adlerInit v s = { s with
    adlerLo := BitVec.ofNat 32 (v.toNat % 65536), adlerHi := BitVec.ofNat 32 (v.toNat / 65536), adlerChunk := 0 } := by
  have hlo : v &&& 0xffff = BitVec.ofNat 32 (v.toNat % 65536) := BitVec.eq_of_toNat_eq <| by
    rw [BitVec.toNat_and, BitVec.toNat_ofNat]
    show v.toNat &&& (2 ^ 16 - 1) = _
    rw [Nat.and_two_pow_sub_one_eq_mod]; omega
  have hhi : v >>> 16 = BitVec.ofNat 32 (v.toNat / 65536) := BitVec.eq_of_toNat_eq <| by
    have hv := v.isLt
    rw [BitVec.toNat_ushiftRight, Nat.shiftRight_eq_div_pow, BitVec.toNat_ofNat]; omega
  rw [adlerInit, hlo, hhi]

theorem adlerReduce_eq (s : State) : adlerReduce s = { s with
    adlerLo := BitVec.ofNat 32 (s.adlerLo.toNat % 65521), adlerHi := BitVec.ofNat 32 (s.adlerHi.toNat % 65521) } := by
  have hmod (x : Word) : x % 65521 = BitVec.ofNat 32 (x.toNat % 65521) := BitVec.eq_of_toNat_eq <| by
    rw [BitVec.toNat_umod, BitVec.toNat_ofNat]
    show x.toNat % 65521 = _
    omega
  rw [adlerReduce, hmod, hmod]

theorem adlerAdd_eq (b : Byte) (s : State) : adlerAdd b s = { s with
    adlerLo := BitVec.ofNat 32 (s.adlerLo.toNat + b.toNat)
    adlerHi := BitVec.ofNat 32 (s.adlerHi.toNat + (s.adlerLo.toNat + b.toNat))
    adlerChunk := BitVec.ofNat 13 (s.adlerChunk.toNat + 1) } := by
  simp only [adlerAdd, BitVec.ofNat_add, BitVec.ofNat_toNat, BitVec.setWidth_eq]
  rfl

/-- Where the additions do not wrap, the registers hold their sums (45_adler32_checksum.md R240). -/
theorem adlerAdd_toNat (h : s.adlerHi.toNat + (s.adlerLo.toNat + b.toNat) < 2 ^ 32) :
    (adlerAdd b s).adlerLo.toNat = s.adlerLo.toNat + b.toNat ∧
      (adlerAdd b s).adlerHi.toNat = s.adlerHi.toNat + (s.adlerLo.toNat + b.toNat) := by
  rw [adlerAdd_eq]
  exact ⟨toNat_ofNat_of_fits (by omega), toNat_ofNat_of_fits h⟩

/-- ADLER.UPDATE on numbers (45_adler32_checksum.md R238), where the additions do not wrap. -/
theorem adlerUpdate_eq (hc : s.adlerChunk.toNat < 5552) (h : s.adlerHi.toNat + (s.adlerLo.toNat + b.toNat) < 2 ^ 32) :
    adlerUpdate b s = if s.adlerChunk.toNat + 1 = 5552
      then { s with
        adlerLo := BitVec.ofNat 32 ((s.adlerLo.toNat + b.toNat) % 65521)
        adlerHi := BitVec.ofNat 32 ((s.adlerHi.toNat + (s.adlerLo.toNat + b.toNat)) % 65521)
        adlerChunk := 0 }
      else { s with
        adlerLo := BitVec.ofNat 32 (s.adlerLo.toNat + b.toNat)
        adlerHi := BitVec.ofNat 32 (s.adlerHi.toNat + (s.adlerLo.toNat + b.toNat))
        adlerChunk := BitVec.ofNat 13 (s.adlerChunk.toNat + 1) } := by
  obtain ⟨hlo, hhi⟩ := adlerAdd_toNat h
  have hfull : (adlerAdd b s).adlerChunk = BitVec.ofNat 13 Config.adlerNmax ↔ s.adlerChunk.toNat + 1 = 5552 := by
    rw [adlerAdd_eq, ← BitVec.toNat_inj, toNat_ofNat_of_fits (by omega)]; rfl
  simp only [adlerUpdate, hfull]
  split
  · rw [adlerReduce_eq, hlo, hhi, adlerAdd_eq]
  · exact adlerAdd_eq b s

/-- ADLER.FINAL on numbers (45_adler32_checksum.md R242). -/
theorem exec_adlerFinal (s : State) : exec .adlerFinal s = .next { s with
    adlerLo := BitVec.ofNat 32 (s.adlerLo.toNat % 65521)
    adlerHi := BitVec.ofNat 32 (s.adlerHi.toNat % 65521)
    unitResult := s.adlerHi.toNat % 65521 * 65536 + s.adlerLo.toNat % 65521 } := by
  have hlo := Nat.mod_lt s.adlerLo.toNat (show 65521 > 0 by decide)
  have hhi := Nat.mod_lt s.adlerHi.toNat (show 65521 > 0 by decide)
  have hvalue : (adlerValue (adlerReduce s)).toNat = s.adlerHi.toNat % 65521 * 65536 + s.adlerLo.toNat % 65521 := by
    rw [adlerReduce_eq]
    refine adlerValue_toNat (by omega) ?_ ?_ <;> exact congrArg (BitVec.ofNat 32) (by omega)
  show Host.Outcome.next (setResult (adlerValue (adlerReduce s)).toNat (adlerReduce s)) = _
  rw [hvalue, adlerReduce_eq]; rfl

end Operations

/-- Settles O35: each operation is its equation on numbers (`adlerInit_eq`, `adlerUpdate_eq`, `exec_adlerFinal`). -/
theorem adlerOperations : Obligations.AdlerOperations := by
  refine ⟨fun v s => ?_, fun b s hc h => ⟨_, _, rfl, rfl, ?_⟩, ?_⟩
  · exact congrArg Host.Outcome.next (adlerInit_eq v s)
  · exact congrArg Host.Outcome.next (adlerUpdate_eq hc h)
  · rintro s _ _ rfl rfl
    exact exec_adlerFinal s

/-! ## The sums between two reductions -/

section Sums
variable {m n : Nat} {p : Nat × Nat} {s : State}

/-- The sums are at most what `n` bytes make of two sums of at most `m` (45_adler32_checksum.md R240). -/
structure SumsWithin (m n : Nat) (p : Nat × Nat) : Prop where
  lo : p.1 ≤ m + 255 * n
  hi : 2 * p.2 ≤ 2 * m * (n + 1) + 255 * (n * (n + 1))

theorem sumsWithin_zero (h1 : p.1 ≤ m) (h2 : p.2 ≤ m) : SumsWithin m 0 p := ⟨h1, by omega⟩

theorem SumsWithin.add (h : SumsWithin m n p) (b : Byte) :
    SumsWithin m (n + 1) (p.1 + b.toNat, p.2 + (p.1 + b.toNat)) := by
  obtain ⟨hlo, hhi⟩ := h
  have hb := b.isLt
  have hm : 2 * m * (n + 1 + 1) = 2 * m * (n + 1) + 2 * m := by ring
  have hn : (n + 1) * (n + 1 + 1) = n * (n + 1) + 2 * (n + 1) := by ring
  exact ⟨by dsimp only; omega, by dsimp only; omega⟩

theorem SumsWithin.raw {bytes : List Byte} (h : SumsWithin m n p) :
    SumsWithin m (n + bytes.length) (adlerRaw bytes p) := by
  induction bytes generalizing n p with
  | nil => exact h
  | cons b bytes ih => rw [List.length_cons, ← Nat.add_assoc, Nat.add_right_comm]; exact ih (h.add b)

/-- Until ADLER_NMAX bytes are added the sums fit in 32 bits, even from two 16-bit halves that are not reduced. -/
theorem SumsWithin.hi_lt (h : SumsWithin m n p) (hm : m ≤ 65535) (hn : n ≤ 5552) : p.2 < 2 ^ 32 := by
  have hlinear : 2 * m * (n + 1) ≤ 2 * 65535 * 5553 := Nat.mul_le_mul (by omega) (by omega)
  have hsquare : n * (n + 1) ≤ 5552 * 5553 := Nat.mul_le_mul hn (by omega)
  have hhi := h.hi
  omega

/-- The additions give in the registers the sums on numbers. -/
theorem foldl_adlerAdd_toNat {bytes : List Byte} (hm : m ≤ 65535) (hn : n + bytes.length ≤ 5552)
    (h : SumsWithin m n (s.adlerLo.toNat, s.adlerHi.toNat)) :
    ((bytes.foldl (fun u b => adlerAdd b u) s).adlerLo.toNat, (bytes.foldl (fun u b => adlerAdd b u) s).adlerHi.toNat)
      = adlerRaw bytes (s.adlerLo.toNat, s.adlerHi.toNat) := by
  induction bytes generalizing n s with
  | nil => rfl
  | cons b bytes ih =>
    rw [List.length_cons] at hn
    have hadd := h.add b
    obtain ⟨hlo, hhi⟩ := adlerAdd_toNat (hadd.hi_lt hm (by omega))
    rw [List.foldl_cons, adlerRaw, ← hhi, ← hlo]
    exact ih (n := n + 1) (by omega) (by rw [hhi, hlo]; exact hadd)

end Sums

/-- Settles O37: the additions are those on numbers (`foldl_adlerAdd_toNat`), which `SumsWithin.raw` bounds. -/
theorem adlerSumsDoNotWrap : Obligations.AdlerSumsDoNotWrap := by
  intro bytes s hn hlo hhi
  have hstart : SumsWithin 65520 0 (s.adlerLo.toNat, s.adlerHi.toNat) := sumsWithin_zero hlo hhi
  have hsums := foldl_adlerAdd_toNat (bytes := bytes) (by decide) (by omega) hstart
  obtain ⟨hloBound, hhiBound⟩ := hstart.raw (bytes := bytes)
  have hsquare : bytes.length * (bytes.length + 1) ≤ 5552 * 5553 := Nat.mul_le_mul hn (by omega)
  rw [Nat.zero_add] at hloBound hhiBound
  exact ⟨congrArg Prod.fst hsums, congrArg Prod.snd hsums, by omega, by omega⟩

/-! ## The checksum of a byte sequence -/

section Sequence
variable {c : Nat} {p : Nat × Nat} {s : State}

/-- The registers hold sums congruent to `p` and are `c` additions from a reduction or from ADLER.INIT, whose halves may
be unreduced: so the bound is 65535, where `AdlerAt` has 65520. -/
structure AdlerTracks (p : Nat × Nat) (c : Nat) (s : State) : Prop where
  chunk : s.adlerChunk.toNat = c
  below : c < 5552
  lo : s.adlerLo.toNat ≡ p.1 [MOD 65521]
  hi : s.adlerHi.toNat ≡ p.2 [MOD 65521]
  within : SumsWithin 65535 c (s.adlerLo.toNat, s.adlerHi.toNat)

theorem adlerInit_tracks (v : Word) (s : State) :
    AdlerTracks (v.toNat % 65536, v.toNat / 65536) 0 (adlerInit v s) := by
  have hv := v.isLt
  have hlo : (adlerInit v s).adlerLo.toNat = v.toNat % 65536 := by
    rw [adlerInit_eq]; exact toNat_ofNat_of_fits (by omega)
  have hhi : (adlerInit v s).adlerHi.toNat = v.toNat / 65536 := by
    rw [adlerInit_eq]; exact toNat_ofNat_of_fits (by omega)
  exact ⟨rfl, by decide, congrArg (· % 65521) hlo, congrArg (· % 65521) hhi, sumsWithin_zero (by omega) (by omega)⟩

theorem AdlerTracks.update (h : AdlerTracks p c s) (b : Byte) :
    AdlerTracks (adlerNext b p) ((c + 1) % 5552) (adlerUpdate b s) := by
  obtain ⟨rfl, hc, hlo, hhi, hwithin⟩ := h
  have hadd := hwithin.add b
  have hfits := hadd.hi_lt le_rfl hc
  dsimp only at hfits
  have hnextLo : s.adlerLo.toNat + b.toNat ≡ (adlerNext b p).1 [MOD 65521] :=
    (hlo.add_right _).trans (Nat.mod_modEq ..).symm
  have hnextHi : s.adlerHi.toNat + (s.adlerLo.toNat + b.toNat) ≡ (adlerNext b p).2 [MOD 65521] :=
    (hhi.add hnextLo).trans (Nat.mod_modEq ..).symm
  rw [adlerUpdate_eq hc hfits]
  split
  case isTrue hfull =>
    rw [hfull, Nat.mod_self]
    have hmod (x : Nat) : (BitVec.ofNat 32 (x % 65521)).toNat = x % 65521 := toNat_ofNat_of_fits (by omega)
    refine ⟨rfl, by decide, ?_, ?_, sumsWithin_zero ?_ ?_⟩ <;> dsimp only <;> rw [hmod]
    · exact (Nat.mod_modEq ..).trans hnextLo
    · exact (Nat.mod_modEq ..).trans hnextHi
    · omega
    · omega
  case isFalse hfull =>
    have hlt : s.adlerChunk.toNat + 1 < 5552 := by omega
    rw [Nat.mod_eq_of_lt hlt]
    refine ⟨toNat_ofNat_of_fits (by omega), hlt, ?_, ?_, ?_⟩ <;> dsimp only
    · rwa [toNat_ofNat_of_fits (by omega)]
    · rwa [toNat_ofNat_of_fits hfits]
    · rwa [toNat_ofNat_of_fits (by omega), toNat_ofNat_of_fits hfits]

/-- ADLER.UPDATE for each byte in order. -/
def adlerUpdates (bytes : List Byte) (s : State) : State := bytes.foldl (fun u b => adlerUpdate b u) s

theorem AdlerTracks.updates {bytes : List Byte} (h : AdlerTracks p c s) :
    ∃ d, AdlerTracks (adlerSums bytes p) d (adlerUpdates bytes s) := by
  induction bytes generalizing p c s with
  | nil => exact ⟨c, h⟩
  | cons b bytes ih => exact ih (h.update b)

theorem sameButAdler_updates (bytes : List Byte) (s : State) : SameButAdler s (adlerUpdates bytes s) := by
  induction bytes generalizing s with
  | nil => exact rfl
  | cons b bytes ih => exact (sameButAdler_update b s).trans (ih _)

theorem execAll_adlerUpdates (bytes : List Byte) (rest : List Instr) (s : State) :
    execAll (bytes.map Instr.adlerUpdate ++ rest) s = execAll rest (adlerUpdates bytes s) := by
  induction bytes generalizing s with
  | nil => rfl
  | cons b bytes ih => exact ih (adlerUpdate b s)

/-- The running sums are reduced after a byte, or where they were so before. -/
theorem adlerSums_reduced {bytes : List Byte} (h : bytes ≠ [] ∨ (p.1 < 65521 ∧ p.2 < 65521)) :
    (adlerSums bytes p).1 < 65521 ∧ (adlerSums bytes p).2 < 65521 := by
  cases bytes with
  | nil => exact h.resolve_left (absurd rfl)
  | cons b bytes => exact adlerSums_lt bytes (Nat.mod_lt _ (by decide)) (Nat.mod_lt _ (by decide))

end Sequence

/-- Settles O36: the updates keep the registers congruent to the running sums (`AdlerTracks.updates`), which are reduced
(`adlerSums_reduced`), so ADLER.FINAL returns them. -/
theorem adlerUnitComputesAdler32 : Obligations.AdlerUnitComputesAdler32 := by
  intro bytes v s h
  obtain ⟨d, -, -, hlo, hhi, -⟩ := (adlerInit_tracks v s).updates (bytes := bytes)
  obtain ⟨hloLt, hhiLt⟩ := adlerSums_reduced (p := (v.toNat % 65536, v.toNat / 65536)) h
  have hsame : SameButAdler s (adlerUpdates bytes (adlerInit v s)) :=
    SameButAdler.trans (t := adlerInit v s) rfl (sameButAdler_updates bytes _)
  have hrun : execAll (.adlerInit v :: (bytes.map Instr.adlerUpdate ++ [.adlerFinal])) s
      = execAll [.adlerFinal] (adlerUpdates bytes (adlerInit v s)) := execAll_adlerUpdates bytes _ _
  rw [hrun, execAll, exec_adlerFinal]
  refine ⟨_, rfl, ?_, by rw [hsame]⟩
  rw [adler32, ← Nat.mod_eq_of_lt hloLt, ← Nat.mod_eq_of_lt hhiLt, ← hlo, ← hhi]

end Sys2Proof.Machine
end

section
/-! The entry into ERROR (60_exceptions.md R256, R258): what the host then reads, and what OUT then holds. -/

namespace Sys2Proof.Machine

section Entry
variable (e : ErrorKind) (s : State)

@[simp] theorem takeError_busy : (takeError e s).busy = false := rfl
@[simp] theorem takeError_statusWord : (takeError e s).statusWord = 4 := rfl
@[simp] theorem takeError_outCountWord : (takeError e s).outCountWord = 0 := rfl

@[simp] theorem takeError_errorCodeWord : (takeError e s).errorCodeWord = e.code.setWidth 32 :=
  if_pos (takeError_seqState e s)

/-- Every byte of OUT is then a free value of the new epoch, whatever had been written (log 4). -/
@[simp] theorem memReadOut_takeError (a : Nat) :
    memReadOut a (takeError e s) = Config.unwrittenOut (s.outMem.epoch + 1) a := by
  simp [memReadOut]

end Entry

/-- Settles O58: the registers by `takeError`'s definition, OUT by `memReadOut_takeError`, the code kind by kind, and
the engine does nothing in ERROR (`engineStep_not_busy`). -/
theorem errorEntry : Obligations.ErrorEntry := by
  intro e s
  refine ⟨rfl, memReadOut_takeError e s, takeError_statusWord e s, takeError_outCountWord e s, ?_, fun hin => ?_⟩
  · rw [takeError_errorCodeWord]
    cases e <;> rfl
  · rw [step_of_no_inputs ((takeError_inputs e s).trans hin), engineStep_not_busy (takeError_busy e s)]

end Sys2Proof.Machine
end

section
/-! The start of a call (70_reset_and_hazards.md R284, R286), and that no stream stops the engine (R304). -/

namespace Sys2Proof.Machine

/-! ## The engine goes on -/

/-- A row of the engine leads to a next state, while a call runs and outside one. -/
theorem engineStep_exists_next {s : State} (h : Inv s) : ∃ t, engineStep s = .next t := by
  cases hb : s.busy with
  | false => exact ⟨s, engineStep_not_busy hb⟩
  | true =>
    obtain ⟨t, ht, -⟩ := engineStep_next h hb
    exact ⟨t, ht⟩

/-- A due tick of the host makes way for one row of the engine (log 8). -/
theorem step_of_tick {s : State} {rest : List Input} (h : s.inputs = .tick :: rest) :
    step s = engineStep { s with inputs := rest } := by
  simp only [step, nextStep, h]

/-- Settles O12: the step is a row of the engine, which has a next state (`engineStep_exists_next`); that the tick is
gone from the host's moves is nothing to the invariant. -/
theorem engineNeverStops : Obligations.EngineNeverStops := by
  rintro s h (hin | ⟨rest, hin⟩)
  · rw [step_of_no_inputs hin]
    exact engineStep_exists_next h
  · rw [step_of_tick hin]
    exact engineStep_exists_next (h.withHost s.hostData rest)

/-! ## The start of a call -/

/-- While a call runs the write of CTRL.START is ignored (70_reset_and_hazards.md R286). -/
theorem exec_decompress_busy {s : State} (x : BitVec 31) (hb : s.busy = true) : exec (.decompress x) s = .next s :=
  if_pos hb

@[simp] theorem startCall_statusWord (s : State) : (startCall s).statusWord = 1 := rfl

/-- Settles O56: while BUSY by `exec_decompress_busy`; otherwise the next state is `startCall`, whose free cursor is
within IN_SIZE (`freeOffsetIn_le`). -/
theorem startBeginsCall : Obligations.StartBeginsCall := by
  refine fun x s => ⟨exec_decompress_busy x, fun hb => ⟨startCall s, exec_decompress_start x hb, rfl, ?_, ?_⟩⟩
  · exact freeOffsetIn_le s
  · exact startCall_statusWord s

end Sys2Proof.Machine
end
